-- ==== Sys2Proof/Word.lean ====
section
/-! DEFINITION. The data types of the block: bytes, nine-byte frames, 16-bit readings (rule R10). -/

namespace Sys2Proof

/-- A byte: an unsigned integer in 0 to 255, bit 7 the most significant (R10). -/
abbrev Byte := BitVec 8

/-- Nine bytes, one for each frame offset 0 to 8 (R51, R60). -/
abbrev Frame := Vector Byte 9

/-- The seven bytes a checksum covers, frame offsets 1 to 7 (R110). -/
abbrev Body := Vector Byte 7

/-- A 16-bit unsigned value: a span or a reading (R28, R120). -/
abbrev Word16 := BitVec 16

end Sys2Proof
end

