-- ==== Sys2Proof/Config.lean ====
section
/-! DEFINITION. The constants the source fixes (R6, R7), the five operations (R5), and the free values of
what the spec leaves unspecified (R28, R33). `RX_STRICT` = false and `ATTEMPTS` = 1 are fixed by R8: the
model has neither a validating parser nor a retry, so no constant stands for them. `ARG_W` is open and `arg`
is an unbounded integer here (log 5); `REG_MAP` and `CLOCK` are open and no rule reads them. -/

namespace Sys2Proof

/-- The five operations of the block (R5), a closed enumeration (R83). -/
inductive Op where
  | read | abc | zero | span | range
  deriving DecidableEq, Repr, Inhabited

namespace Config

/-! ### Frame constants, R6 -/

/-- `START`: byte 0 of every command frame and required byte 0 of an accepted response. -/
abbrev start : Byte := 0xFF
/-- `ADDR`: byte 1 of every command frame. -/
abbrev addr : Byte := 0x01
/-- `RX_MIN_LEN`: the least number of bytes of an accepted response. -/
abbrev rxMinLen : Nat := 4
/-- `FRAME_LEN`: the bytes of a command frame, and the bytes asked of the transport for a response. -/
abbrev frameLen : Nat := 9

/-! ### Code constants, R7 -/

/-- `CMD_READ`: command code of `READ`, and required byte 1 of an accepted response. -/
abbrev cmdRead : Byte := 0x86
/-- `CMD_ZERO` -/
abbrev cmdZero : Byte := 0x87
/-- `CMD_SPAN` -/
abbrev cmdSpan : Byte := 0x88
/-- `CMD_ABC` -/
abbrev cmdAbc : Byte := 0x79
/-- `CMD_RANGE` -/
abbrev cmdRange : Byte := 0x99
/-- `ABC_ON_BYTE`: 90_conflicts.md C1 decides for `A0` against a stray `A6`. -/
abbrev abcOnByte : Byte := 0xA0
/-- `ABC_OFF_BYTE` -/
abbrev abcOffByte : Byte := 0x00
/-- `SPAN_MIN` -/
abbrev spanMin : Int := 0
/-- `SPAN_MAX` -/
abbrev spanMax : Int := 65535

/-! ### Free values. Nothing in Lean can evaluate them; the argument is `State.draws` (log 3, log 9). -/

/-- What `cur_op` holds after Reset: unspecified (R33). DESIGN CHOICE, log 3: a free value. -/
opaque unspecifiedOp : Nat → Op
/-- What a byte of `txf` or `rxb` holds after Reset: unspecified (R33). DESIGN CHOICE, log 3: a free value. -/
opaque unspecifiedByte : Nat → Byte
/-- What `co2` holds after Reset: unspecified (R33). DESIGN CHOICE, log 3: a free value. -/
opaque unspecifiedReading : Nat → Word16
/-- What the host reads from `co2` while `co2_valid` = 0: an unconstrained draw (R28). DESIGN CHOICE, log 9. -/
opaque invalidCo2Read : Nat → Word16

end Config

end Sys2Proof
end

