-- ==== Sys2Proof/Syntax.lean ====
section
/-! DEFINITION. The instructions: one constructor per row of spec/opcode_table.json (R85). -/

namespace Sys2Proof

/-- The rows of the opcode table. The first seven are commands the host issues; the last is the response the
block receives. -/
inductive Instr where
  /-- `READ` (R131): ask for the CO2 reading. -/
  | read
  /-- `ABC_ON` (R132): `ABC` with `on` true. -/
  | abcOn
  /-- `ABC_OFF` (R132): `ABC` with `on` false. -/
  | abcOff
  /-- `ZERO` (R133): zero-point calibration. -/
  | zero
  /-- `SPAN span` (R134): span-point calibration. The operand is the signed integer of the port, so that the
  values the block rejects can be written (90_conflicts.md C4). -/
  | span (span : Int)
  /-- `RANGE_5000` (R135). -/
  | range5000
  /-- `RANGE_2000` (R135). -/
  | range2000
  /-- `RESP_READ` (R82, R150): an acceptable response, its value bytes and the ignored bytes from offset 4 on. -/
  | respRead (hi lo : Byte) (ignored : List Byte)
  deriving DecidableEq, Repr

end Sys2Proof
end

