-- ==== Sys2Proof/WellFormed.lean ====
section
/-! DEFINITION. Which instructions have an encoding in spec/opcode_table.json. An ill-formed `span` still has a
meaning (R134 rejects it); it has no frame. -/

namespace Sys2Proof

/-- Why an instruction has no encoding. -/
inductive IllFormed where
  /-- A span outside 0 to 65535 is not assembled at all (R84). -/
  | spanOutOfRange
  /-- A response has at most nine bytes, so at most five after offset 3 (R82). -/
  | responseTooLong
  deriving DecidableEq, Repr

/-- The one thing wrong with an instruction's fields, if anything is. -/
def Instr.illFormed : Instr → Option IllFormed
  | .read | .abcOn | .abcOff | .zero | .range5000 | .range2000 => none
  | .span v => if v < Config.spanMin ∨ v > Config.spanMax then some .spanOutOfRange else none
  | .respRead _ _ ignored => if ignored.length > 5 then some .responseTooLong else none

/-- The instruction has an encoding. -/
def Instr.wellFormed (i : Instr) : Bool := i.illFormed.isNone

end Sys2Proof
end

