-- ==== Sys2Proof/Decode.lean ====
section
/-! DEFINITION. From bytes, port words and table words to instructions, rejecting by name, and back
(30_encoding.md). Command frames are what the block sends; the frame decoder is R92's, held to the literal bytes
of R85. Responses are what it receives (R82). Commands reach the block through the command port (R83). -/

namespace Sys2Proof

/-! ### The command port (R83) -/

/-- The 3-bit code of an operation (R83). -/
def Op.code : Op → BitVec 3
  | .read => 0
  | .abc => 1
  | .zero => 2
  | .span => 3
  | .range => 4

/-- The operation of a 3-bit code; 5 to 7 name none (R83, R86). -/
def Op.ofCode (c : BitVec 3) : Option Op :=
  if c = 0 then some .read
  else if c = 1 then some .abc
  else if c = 2 then some .zero
  else if c = 3 then some .span
  else if c = 4 then some .range
  else none

/-- Why a port word names no row of the table. Both are `INVALID_ARGUMENT` to the host (R86, R135). -/
inductive PortReject where
  /-- `op` in 5 to 7 (R86). -/
  | reservedOp (op : BitVec 3)
  /-- `RANGE` with an argument other than 5000 and 2000 (R135). -/
  | unsupportedRange (range : Int)
  deriving DecidableEq, Repr

/-- The instruction a command word `(op, arg)` presents. `arg` is ignored by `READ` and `ZERO`, and for `ABC`
only zero or not matters (R83, R89). A span of any value is the instruction `SPAN`, which checks it (R134). -/
def decodePort (op : BitVec 3) (arg : Int) : Except PortReject Instr :=
  match Op.ofCode op with
  | some .read => .ok .read
  | some .abc => .ok (if arg ≠ 0 then .abcOn else .abcOff)
  | some .zero => .ok .zero
  | some .span => .ok (.span arg)
  | some .range =>
    if arg = 5000 then .ok .range5000
    else if arg = 2000 then .ok .range2000
    else .error (.unsupportedRange arg)
  | none => .error (.reservedOp op)

/-- A command word that presents the instruction; a response is not issued (opcode_table.json, `port`). Of the
arguments that present `READ`, `ZERO` and `ABC on` it takes 0, 0 and 1, as 95_test_vectors.md does (E1, E7, Program 5). -/
def portOf : Instr → Option (BitVec 3 × Int)
  | .read => some (0, 0)
  | .abcOn => some (1, 1)
  | .abcOff => some (1, 0)
  | .zero => some (2, 0)
  | .span v => some (3, v)
  | .range5000 => some (4, 5000)
  | .range2000 => some (4, 2000)
  | .respRead _ _ _ => none

/-! ### Frames and responses (R81, R82, R85) -/

/-- Why bytes are no instruction. For a received response every reason is the one error `Malformed` (R151). -/
inductive DecodeReject where
  /-- A command frame has nine bytes (R60), an acceptable response at least four (R151). -/
  | tooShort (n : Nat)
  /-- No frame and no response is longer than nine bytes (R60, R82). -/
  | tooLong (n : Nat)
  /-- Byte 0 is not `FF` (R51, R151). -/
  | badStart (b : Byte)
  /-- Byte 1 of a command frame is not `01` (R87). -/
  | badAddress (b : Byte)
  /-- Byte 2 of a command frame is none of the five command codes (R87). -/
  | unknownCommand (b : Byte)
  /-- The payload is none the command has (R87). -/
  | badPayload (cmd : Byte)
  /-- Byte 8 of a command frame is not the checksum (R81). -/
  | badChecksum (b : Byte)
  /-- Byte 1 of a response is not `86` (R88). -/
  | badResponseCode (b : Byte)
  deriving DecidableEq, Repr

/-- The checksum of a `SPAN` frame in the closed form that R85 gives for row 5. -/
def spanChecksum (hi lo : Byte) : Byte := 0x77 - hi - lo

/-- A frame of one row: its payload and its checksum must be the row's. -/
def expectRow (i : Instr) (cmd : Byte) (payloadOk : Bool) (cs want : Byte) : Except DecodeReject Instr :=
  if payloadOk then if cs = want then .ok i else .error (.badChecksum cs) else .error (.badPayload cmd)

/-- The instruction of a command code with its payload and checksum (R85 rows 1 to 7, R92). -/
def decodePayload (cmd d0 d1 d2 d3 d4 cs : Byte) : Except DecodeReject Instr :=
  if cmd = Config.cmdRead then expectRow .read cmd ([d0, d1, d2, d3, d4] = [0, 0, 0, 0, 0]) cs 0x79
  else if cmd = Config.cmdAbc then
    if d0 = Config.abcOnByte then expectRow .abcOn cmd ([d1, d2, d3, d4] = [0, 0, 0, 0]) cs 0xE6
    else expectRow .abcOff cmd ([d0, d1, d2, d3, d4] = [Config.abcOffByte, 0, 0, 0, 0]) cs 0x86
  else if cmd = Config.cmdZero then expectRow .zero cmd ([d0, d1, d2, d3, d4] = [0, 0, 0, 0, 0]) cs 0x78
  else if cmd = Config.cmdSpan then
    expectRow (.span (d0.toNat * 256 + d1.toNat)) cmd ([d2, d3, d4] = [0, 0, 0]) cs (spanChecksum d0 d1)
  else if cmd = Config.cmdRange then
    if d3 = 0x13 then expectRow .range5000 cmd ([d0, d1, d2, d3, d4] = [0, 0, 0, 0x13, 0x88]) cs 0xCB
    else expectRow .range2000 cmd ([d0, d1, d2, d3, d4] = [0, 0, 0, 0x07, 0xD0]) cs 0x8F
  else .error (.unknownCommand cmd)

/-- The instruction of a command frame, format TXCMD (R81). -/
def decodeCommand (bytes : List Byte) : Except DecodeReject Instr :=
  match bytes with
  | [b0, b1, cmd, d0, d1, d2, d3, d4, cs] =>
    if b0 ≠ Config.start then .error (.badStart b0)
    else if b1 ≠ Config.addr then .error (.badAddress b1)
    else decodePayload cmd d0 d1 d2 d3 d4 cs
  | l => if l.length < Config.frameLen then .error (.tooShort l.length) else .error (.tooLong l.length)

/-- The instruction of a received response, format RXRESP (R82): at least four bytes, the first two `FF 86`;
the value is bytes 2 and 3, and what follows is ignored (R150 to R152). -/
def decodeResponse (bytes : List Byte) : Except DecodeReject Instr :=
  match bytes with
  | b0 :: b1 :: hi :: lo :: ignored =>
    if b0 ≠ Config.start then .error (.badStart b0)
    else if b1 ≠ Config.cmdRead then .error (.badResponseCode b1)
    else if ignored.length > 5 then .error (.tooLong bytes.length)
    else .ok (.respRead hi lo ignored)
  | l => .error (.tooShort l.length)

/-- The instruction of a frame in either direction. Offset 1 tells the formats apart: `01` in every command
frame, `86` in every acceptable response (R51, R82; 90_conflicts.md C2). -/
def decode (bytes : List Byte) : Except DecodeReject Instr :=
  match bytes with
  | _ :: b1 :: _ => if b1 = Config.addr then decodeCommand bytes else decodeResponse bytes
  | l => .error (.tooShort l.length)

/-! ### The encoder, from R85's table -/

/-- The bytes of a well-formed instruction, offset 0 first: the literals of R85 and, for `SPAN`, its row 5. -/
def encode : Instr → List Byte
  | .read => [0xFF, 0x01, 0x86, 0x00, 0x00, 0x00, 0x00, 0x00, 0x79]
  | .abcOn => [0xFF, 0x01, 0x79, 0xA0, 0x00, 0x00, 0x00, 0x00, 0xE6]
  | .abcOff => [0xFF, 0x01, 0x79, 0x00, 0x00, 0x00, 0x00, 0x00, 0x86]
  | .zero => [0xFF, 0x01, 0x87, 0x00, 0x00, 0x00, 0x00, 0x00, 0x78]
  | .span v =>
    let hh := BitVec.ofInt 8 (v / 256)
    let ll := BitVec.ofInt 8 (v % 256)
    [0xFF, 0x01, 0x88, hh, ll, 0x00, 0x00, 0x00, spanChecksum hh ll]
  | .range5000 => [0xFF, 0x01, 0x99, 0x00, 0x00, 0x00, 0x13, 0x88, 0xCB]
  | .range2000 => [0xFF, 0x01, 0x99, 0x00, 0x00, 0x00, 0x07, 0xD0, 0x8F]
  | .respRead hi lo ignored => 0xFF :: 0x86 :: hi :: lo :: ignored

/-! ### Frames as 72-bit words, and the opcode table (R80) -/

/-- A frame as one 72-bit word: offset 0 is bits 71 to 64, offset 8 bits 7 to 0 (R80). -/
def frameBits (f : Frame) : BitVec 72 :=
  f[0] ++ f[1] ++ f[2] ++ f[3] ++ f[4] ++ f[5] ++ f[6] ++ f[7] ++ f[8]

/-- The frame of a 72-bit word (R80). -/
def frameOfBits (w : BitVec 72) : Frame :=
  #v[w.extractLsb' 64 8, w.extractLsb' 56 8, w.extractLsb' 48 8, w.extractLsb' 40 8, w.extractLsb' 32 8,
    w.extractLsb' 24 8, w.extractLsb' 16 8, w.extractLsb' 8 8, w.extractLsb' 0 8]

/-- A row of spec/opcode_table.json: a word `w` is of the row when `w &&& mask = pattern`. -/
structure TableRow where
  mnemonic : String
  pattern : BitVec 72
  mask : BitVec 72
  deriving DecidableEq, Repr

/-- The row of the opcode table an instruction belongs to, the table's `match` and `mask` as they stand there. -/
def Instr.row : Instr → TableRow
  | .read => ⟨"READ", 0xFF0186000000000079, 0xFFFFFFFFFFFFFFFFFF⟩
  | .abcOn => ⟨"ABC_ON", 0xFF0179A000000000E6, 0xFFFFFFFFFFFFFFFFFF⟩
  | .abcOff => ⟨"ABC_OFF", 0xFF0179000000000086, 0xFFFFFFFFFFFFFFFFFF⟩
  | .zero => ⟨"ZERO", 0xFF0187000000000078, 0xFFFFFFFFFFFFFFFFFF⟩
  | .span _ => ⟨"SPAN", 0xFF0188000000000000, 0xFFFFFF0000FFFFFF00⟩
  | .range5000 => ⟨"RANGE_5000", 0xFF01990000001388CB, 0xFFFFFFFFFFFFFFFFFF⟩
  | .range2000 => ⟨"RANGE_2000", 0xFF019900000007D08F, 0xFFFFFFFFFFFFFFFFFF⟩
  | .respRead _ _ _ => ⟨"RESP_READ", 0xFF8600000000000000, 0xFFFF00000000000000⟩

/-- The eight rows of the opcode table, in its order. -/
def opcodeTable : List TableRow :=
  [Instr.row .read, Instr.row .abcOn, Instr.row .abcOff, Instr.row .zero, Instr.row (.span 0),
    Instr.row .range5000, Instr.row .range2000, Instr.row (.respRead 0 0 [])]

/-- The table's mask leaves the `cs` field of a `SPAN` word free: it is "a function of d0 and d1, not an
operand". Of a word of that row this puts in the checksum it has on the wire. DESIGN CHOICE, log 10. -/
def completeChecksum (f : Frame) : Frame :=
  if f[0] = Config.start ∧ f[1] = Config.addr ∧ f[2] = Config.cmdSpan
  then f.set 8 (spanChecksum f[3] f[4]) else f

/-- The nine bytes of a table word of `nbits` bits: its first byte is its most significant (R80), and bytes the
word does not reach are 0. -/
def tableFrame (nbits w : Nat) : Frame := frameOfBits (BitVec.ofNat 72 (w % 2 ^ nbits * 2 ^ (72 - nbits)))

/-- The instruction the decoder reads from a table word (log 10). -/
def decodeTableWord (nbits w : Nat) : Option Instr :=
  if nbits = 0 ∨ 72 < nbits then none
  else
    match decode (completeChecksum (tableFrame nbits w)).toList with
    | .ok i => some i
    | .error _ => none

end Sys2Proof
end

