-- ==== Sys2Proof/Machine/Checksum.lean ====
section
/-! DEFINITION. The checksum (40_checksum.md). -/

namespace Sys2Proof.Machine

/-- The sum of seven bytes as an unbounded integer (R12). -/
def bodySum (b : Body) : Nat :=
  b[0].toNat + b[1].toNat + b[2].toNat + b[3].toNat + b[4].toNat + b[5].toNat + b[6].toNat

/-- `Checksum(b)` (R110): the source's four steps. -/
def checksum (b : Body) : Byte :=
  let s := bodySum b % 256
  let t := 0xFF - s
  let u := t + 1
  BitVec.ofNat 8 (u % 256)

/-- The bytes of a frame a checksum covers: offsets 1 to 7 (R11, R110). -/
def frameBody (f : Frame) : Body := #v[f[1], f[2], f[3], f[4], f[5], f[6], f[7]]

end Sys2Proof.Machine
end

