-- ==== Sys2Proof/Machine/Operands.lean ====
section
/-! DEFINITION. The operand forms: the Boolean of `ABC`, the 16-bit splitter and joiner (41_byte_split.md, R83, R84). -/

namespace Sys2Proof.Machine

/-- The Boolean operand of `ABC` on the command port: `on = (arg != 0)` (R83, R132). -/
def abcOperand (arg : Int) : Bool := arg ≠ 0

/-- `Split16(v) = (hi, lo)`: `hi = v div 256`, `lo = v mod 256` (R120). Its type is its domain: a value outside
0 to 65535 never reaches it (R124). -/
def split16 (v : Word16) : Byte × Byte := (BitVec.ofNat 8 (v.toNat / 256), BitVec.ofNat 8 (v.toNat % 256))

/-- `Join16(hi, lo) = hi * 256 + lo`, both bytes zero-extended (R121). -/
def join16 (hi lo : Byte) : Word16 := BitVec.ofNat 16 (hi.toNat * 256 + lo.toNat)

end Sys2Proof.Machine
end

