-- ==== Sys2Proof/Machine/State.lean ====
section
/-! DEFINITION. The state of the block: the nine registers of R20, the TX stream, the events the agents have
ready, and the counter of the free values; the outcomes of a step; the state after reset (R33). -/

namespace Sys2Proof.Machine

/-- `phase` (R21): where the block is in a transaction. The fourth 2-bit code is unreachable (log 12). -/
inductive Phase where
  | idle | tx | rx
  deriving DecidableEq, Repr

/-- `status` (R27): the result of the last operation. Codes 5 to 7 are never written (log 12). -/
inductive Status where
  | none | ok | invalidArgument | malformedResponse | transportError
  deriving DecidableEq, Repr

/-- The three error kinds (R190). -/
inductive ErrorKind where
  /-- "span or range value out of the supported set", or a reserved `op` (R191). -/
  | invalidArgument
  /-- A response that is rejected (R192). -/
  | malformedResponse
  /-- The transport reported a write or read failure (R193). -/
  | transportError
  deriving DecidableEq, Repr

/-- The seven events that can change the block's state, each atomic (R160, R62). -/
inductive Event where
  /-- The host presents a command word (R161). -/
  | cmdIssue (op : BitVec 3) (arg : Int)
  /-- The transport takes the next frame byte (R163). -/
  | txByte
  /-- The transport reports a write failure (R164). -/
  | txFail
  /-- The transport delivers one received byte (R166). -/
  | rxByte (b : Byte)
  /-- The transport's read ends before nine bytes (R167). -/
  | rxTimeout
  /-- The transport reports a read failure (R169). -/
  | rxFail
  /-- The reset source acts (R220). -/
  | reset
  deriving DecidableEq, Repr

/-- Why a step stops. Both states are ruled out by the ranges R24 and R26 give (R32 V2, V3): no run from reset
reaches them. Safe: the model stops where the spec gives no next state (log 8). -/
inductive Fault where
  /-- Raised by `TxByte` in phase `TX` with `txi` = 9: there is no `txf[9]`. Safe. -/
  | txPastFrame
  /-- Raised by `RxByte` in phase `RX` with `rxn` = 9: there is no `rxb[9]`. Safe. -/
  | rxPastBuffer
  deriving DecidableEq, Repr

/-- Why a step has no meaning. -/
inductive Refusal where
  /-- Raised by an arm of `exec` whose instruction has no meaning yet. Safe. No arm does. -/
  | notModelled (mnemonic : String)
  deriving DecidableEq, Repr

/-- The state. The first nine fields are the architectural registers, exactly those of R20. -/
structure State where
  /-- `phase`, R21 -/
  phase : Phase
  /-- `cur_op`, R22: the last operation CmdIssue accepted -/
  curOp : Op
  /-- `txf[0..8]`, R23: the command frame being sent -/
  txf : Frame
  /-- `txi`, R24: frame bytes handed to the transport, 0 to 9 -/
  txi : Fin 10
  /-- `rxb[0..8]`, R25: the response bytes -/
  rxb : Frame
  /-- `rxn`, R26: response bytes received, 0 to 9 -/
  rxn : Fin 10
  /-- `status`, R27 -/
  status : Status
  /-- `co2`, R28: the last accepted reading; not a reading while `co2_valid` = 0 -/
  co2 : Word16
  /-- `co2_valid`, R28 -/
  co2Valid : Bool
  /-- The TX stream (R53), oldest byte first: all the block has handed to the transport. Log 4. -/
  txStream : List Byte
  /-- The events the agents have ready, in their order: the command port, the transport, the reset source. The
  model's own field, log 1. -/
  pending : List Event
  /-- How many free values have been drawn. The model's own field, log 3. -/
  draws : Nat
  deriving DecidableEq, Repr

/-- The `n`-th and the following eight free bytes: a buffer Reset leaves unspecified (R33, log 3). -/
def unspecifiedFrame (n : Nat) : Frame :=
  #v[Config.unspecifiedByte n, Config.unspecifiedByte (n + 1), Config.unspecifiedByte (n + 2),
    Config.unspecifiedByte (n + 3), Config.unspecifiedByte (n + 4), Config.unspecifiedByte (n + 5),
    Config.unspecifiedByte (n + 6), Config.unspecifiedByte (n + 7), Config.unspecifiedByte (n + 8)]

/-- The state right after reset (R33, R220). `cur_op`, `txf`, `rxb` and `co2` are unspecified there: each holds a
free value (DESIGN CHOICE, log 3). Nothing has been sent and no agent has anything ready (log 1, log 4). -/
def State.reset : State where
  phase := .idle
  curOp := Config.unspecifiedOp 0
  txf := unspecifiedFrame 0
  txi := 0
  rxb := unspecifiedFrame 9
  rxn := 0
  status := .none
  co2 := Config.unspecifiedReading 0
  co2Valid := false
  txStream := []
  pending := []
  draws := 18

end Sys2Proof.Machine
end

