-- ==== Sys2Proof/Machine/Build.lean ====
section
/-! DEFINITION. The frame builders, pure functions of the source (42_build_commands.md). `Except.error` carries the
error kind of `Err(e)` (R12). -/

namespace Sys2Proof.Machine

/-- `MkFrame(cmd, d0, d1, d2, d3, d4)` (R130). -/
def mkFrame (cmd d0 d1 d2 d3 d4 : Byte) : Frame :=
  #v[Config.start, Config.addr, cmd, d0, d1, d2, d3, d4, checksum #v[Config.addr, cmd, d0, d1, d2, d3, d4]]

/-- `BuildRead()` (R131). -/
def buildRead : Frame := mkFrame Config.cmdRead 0 0 0 0 0

/-- `BuildAbc(on)` (R132). -/
def buildAbc (on : Bool) : Frame :=
  mkFrame Config.cmdAbc (if on then Config.abcOnByte else Config.abcOffByte) 0 0 0 0

/-- `BuildZero()` (R133). -/
def buildZero : Frame := mkFrame Config.cmdZero 0 0 0 0 0

/-- `BuildSpan(span)` (R134): the range is tested before anything else. -/
def buildSpan (span : Int) : Except ErrorKind Frame :=
  if span < Config.spanMin ∨ span > Config.spanMax then .error .invalidArgument
  else
    let (hi, lo) := split16 (BitVec.ofInt 16 span)
    .ok (mkFrame Config.cmdSpan hi lo 0 0 0)

/-- `BuildRange(range)` (R135): two literal frames and nothing else. -/
def buildRange (range : Int) : Except ErrorKind Frame :=
  if range = 5000 then .ok #v[0xFF, 0x01, 0x99, 0x00, 0x00, 0x00, 0x13, 0x88, 0xCB]
  else if range = 2000 then .ok #v[0xFF, 0x01, 0x99, 0x00, 0x00, 0x00, 0x07, 0xD0, 0x8F]
  else .error .invalidArgument

/-- Every command frame computed with `MkFrame` from its fields (R84), none of them stored: the second of the two
forms R138 allows. The stored form is `encode`, the literals of R85; `buildRange` stores the two `RANGE` frames. A
response is not built. -/
def computedFrame (i : Instr) : Option Frame :=
  match i with
  | .read => some buildRead
  | .abcOn => some (buildAbc true)
  | .abcOff => some (buildAbc false)
  | .zero => some buildZero
  | .span v => (buildSpan v).toOption
  | .range5000 => some (mkFrame Config.cmdRange 0 0 0 0x13 0x88)
  | .range2000 => some (mkFrame Config.cmdRange 0 0 0 0x07 0xD0)
  | .respRead _ _ _ => none

/-- `Build(op, arg)` (R136), total on every 3-bit `op` and every integer `arg`. -/
def build (op : BitVec 3) (arg : Int) : Except ErrorKind Frame :=
  match Op.ofCode op with
  | some .read => .ok buildRead
  | some .abc => .ok (buildAbc (abcOperand arg))
  | some .zero => .ok buildZero
  | some .span => buildSpan arg
  | some .range => buildRange arg
  | none => .error .invalidArgument

end Sys2Proof.Machine
end

