-- ==== Sys2Proof/Machine/Fetch.lean ====
section
/-! DEFINITION. Which event comes next, and how an instruction is laid where the next step takes it from. There is
no instruction fetch (R67): commands come from the command port, responses from the transport. -/

namespace Sys2Proof.Machine

/-- R160's table of enabled events. -/
def enabled (p : Phase) (e : Event) : Bool :=
  match e with
  | .cmdIssue _ _ => p = .idle
  | .txByte | .txFail => p = .tx
  | .rxByte _ | .rxTimeout | .rxFail => p = .rx
  | .reset => true

/-- The first enabled event and what stays pending. An event that is not enabled is held by its agent (R160, R162;
log 1). -/
def takeEnabled (p : Phase) (pending : List Event) : Option (Event × List Event) :=
  match pending with
  | [] => none
  | e :: rest =>
    if enabled p e then some (e, rest)
    else
      match takeEnabled p rest with
      | some (e', rest') => some (e', e :: rest')
      | none => none

/-- The host presents a command word to an idle block, before anything else that is pending (log 11). -/
def placeCommand (op : BitVec 3) (arg : Int) (s : State) : State :=
  { s with phase := .idle, pending := .cmdIssue op arg :: s.pending }

/-- Nine received bytes, the last about to be delivered: the block is in the response phase of a `READ` whose frame
has been sent, with eight bytes taken and the ninth first in line (log 11). -/
def placeResponse (f : Frame) (s : State) : State :=
  { s with
    phase := .rx, curOp := .read, txf := buildRead, txi := 9, status := .none, co2Valid := false
    rxb := #v[f[0], f[1], f[2], f[3], f[4], f[5], f[6], f[7], s.rxb[8]]
    rxn := 8
    pending := .rxByte f[8] :: s.pending }

/-- A table word where the next step takes it from: a command on the port, anything else on the receive side. -/
def placeWord (nbits w : Nat) (s : State) : State :=
  match (decodeTableWord nbits w).bind portOf with
  | some (op, arg) => placeCommand op arg s
  | none => placeResponse (tableFrame nbits w) s

end Sys2Proof.Machine
end

