-- ==== Sys2Proof/Machine/Flags.lean ====
section
/-! DEFINITION. The status register and what the host sees: the status codes (R27), the derived outputs (R29), the
host's register reads (R30), and the typed result of an operation (R171). The block has no carry, overflow, zero
or sign flag (R31). -/

namespace Sys2Proof.Machine

/-- The 2-bit code of a phase (R21). -/
def Phase.code : Phase → BitVec 2
  | .idle => 0
  | .tx => 1
  | .rx => 2

/-- The 3-bit code of a status (R27). -/
def Status.code : Status → BitVec 3
  | .none => 0
  | .ok => 1
  | .invalidArgument => 2
  | .malformedResponse => 3
  | .transportError => 4

/-- The status an error kind is reported by (R190). -/
def ErrorKind.status : ErrorKind → Status
  | .invalidArgument => .invalidArgument
  | .malformedResponse => .malformedResponse
  | .transportError => .transportError

/-- `busy = (phase != IDLE)` (R29). -/
def State.busy (s : State) : Bool := s.phase ≠ .idle

/-- `cmd_ready = (phase = IDLE)` (R29). -/
def State.cmdReady (s : State) : Bool := s.phase = .idle

/-- `done = (status != NONE)` (R29). -/
def State.done (s : State) : Bool := s.status ≠ .none

/-- The reading, present exactly when `co2_valid` is 1 (R28). -/
def State.reading (s : State) : Option Word16 := if s.co2Valid then some s.co2 else none

/-- What the host can read (R30): the registers of R20, a byte of a buffer by its offset, and the outputs of R29.
They have names and no addresses (`REG_MAP` is open, R8). -/
inductive HostReg where
  | phase | curOp | txf (i : Fin 9) | txi | rxb (i : Fin 9) | rxn | status | co2 | co2Valid
  | busy | cmdReady | done
  deriving DecidableEq, Repr

/-- The value the host reads, as an unsigned integer (R30). `co2` while `co2_valid` = 0 is an unconstrained draw
(R28; log 9). A read is an observation: it returns no state. -/
def hostRead (r : HostReg) (s : State) : Nat :=
  match r with
  | .phase => s.phase.code.toNat
  | .curOp => s.curOp.code.toNat
  | .txf i => s.txf[i].toNat
  | .txi => s.txi.val
  | .rxb i => s.rxb[i].toNat
  | .rxn => s.rxn.val
  | .status => s.status.code.toNat
  | .co2 => if s.co2Valid then s.co2.toNat else (Config.invalidCo2Read s.draws).toNat
  | .co2Valid => s.co2Valid.toNat
  | .busy => s.busy.toNat
  | .cmdReady => s.cmdReady.toNat
  | .done => s.done.toNat

/-- The result of an operation as the source types it (R171). -/
inductive OpResult where
  /-- `Ok(Reading)`: `status` = `OK` and `co2_valid` = 1 -/
  | reading (co2 : Word16)
  /-- A built frame written in full: `status` = `OK` and `co2_valid` = 0 -/
  | sent
  /-- One of the three error kinds -/
  | failed (e : ErrorKind)
  deriving DecidableEq, Repr

/-- The result the host learns once `done` is true (R171). -/
def State.result (s : State) : Option OpResult :=
  match s.status with
  | .none => none
  | .ok => some (if s.co2Valid then .reading s.co2 else .sent)
  | .invalidArgument => some (.failed .invalidArgument)
  | .malformedResponse => some (.failed .malformedResponse)
  | .transportError => some (.failed .transportError)

end Sys2Proof.Machine
end

