-- ==== Sys2Proof/Machine/Ops.lean ====
section
/-! DEFINITION. The named operations over the registers and the streams. Every meaning and every event is made of
these. The block has no addressable memory (R50). -/

namespace Sys2Proof.Machine

/-- `raise <Error>` (R196), the one way an error is entered: `status` takes the error's code and `phase` goes to
`IDLE`, in the step that detected it. Nothing is saved, nothing is masked, and there is no handler. There is no
return operation either: the block accepts the next command like after a success (R197). -/
def raise (e : ErrorKind) (s : State) : State := { s with status := e.status, phase := .idle }

/-- An operation ends well: `status` is `OK` and `phase` goes to `IDLE` (R163, R170). -/
def endOk (s : State) : State := { s with status := .ok, phase := .idle }

/-- What every `CmdIssue` does first, accepted or rejected: there is no reading any more (R161). -/
def dropReading (s : State) : State := { s with co2Valid := false }

/-- The writes of an accepted `CmdIssue` after `co2_valid` (R161). -/
def acceptCommand (op : Op) (f : Frame) (s : State) : State :=
  { s with txf := f, txi := 0, rxn := 0, curOp := op, status := .none, phase := .tx }

/-- `CmdIssue` in `IDLE`, once the frame has been built or refused (R161). -/
def issue (op : Op) (built : Except ErrorKind Frame) (s : State) : State :=
  match built with
  | .error e => raise e (dropReading s)
  | .ok f => acceptCommand op f (dropReading s)

/-- A command presented while busy waits at the port: behind what the host presented earlier, not dropped, and the
operation in progress is not disturbed (R162; log 6). -/
def holdAtPort (op : Op) (arg : Int) (s : State) : State :=
  { s with pending := s.pending ++ [.cmdIssue op.code arg] }

/-- A command of the host: accepted or rejected in `IDLE` (R161), held otherwise (R162). -/
def present (op : Op) (arg : Int) (built : Except ErrorKind Frame) (s : State) : State :=
  if s.phase = .idle then issue op built s else holdAtPort op arg s

/-- `TxEmit(b)`: byte `b` is appended to the TX stream (R53). -/
def txEmit (b : Byte) (s : State) : State := { s with txStream := s.txStream ++ [b] }

/-- The frame byte at `txi` is handed over and `txi` counts it (R163). -/
def sendByte (s : State) (h : s.txi.val < 9) : State :=
  { txEmit s.txf[s.txi.val] s with txi := ⟨s.txi.val + 1, by omega⟩ }

/-- A received byte goes to `rxb[rxn]` and `rxn` counts it (R166). -/
def storeByte (b : Byte) (s : State) (h : s.rxn.val < 9) : State :=
  { s with rxb := s.rxb.set s.rxn.val b, rxn := ⟨s.rxn.val + 1, by omega⟩ }

/-- Entering phase `RX`: the `read(9)` request (R165). Nothing is flushed or inspected. -/
def enterRx (s : State) : State := { s with phase := .rx }

/-- The response: `rxb[0..rxn-1]`, never a byte at or beyond `rxn` (R25, R170). -/
def received (s : State) : List Byte := s.rxb.toList.take s.rxn.val

/-- The writes of an accepted response (R170). -/
def acceptReading (v : Word16) (s : State) : State := endOk { s with co2 := v, co2Valid := true }

/-- The writes of `Reset` (R220): the control registers as R33 says; the unspecified ones take free values, and the
counter moves on (log 3). Nothing is emitted, nothing taken from the RX stream. -/
def resetRegisters (s : State) : State :=
  { s with
    phase := .idle, status := .none, co2Valid := false, txi := 0, rxn := 0
    curOp := Config.unspecifiedOp s.draws
    txf := unspecifiedFrame s.draws
    rxb := unspecifiedFrame (s.draws + 9)
    co2 := Config.unspecifiedReading s.draws
    draws := s.draws + 18 }

end Sys2Proof.Machine
end

