-- ==== Sys2Proof/Machine/Command.lean ====
section
/-! DEFINITION. The meanings of the seven command rows: the host presents the command (R161, R162). -/

namespace Sys2Proof.Machine

/-- `READ` (R131): `CmdIssue(0, arg)`, `arg` ignored. -/
def execRead (s : State) : Host.Outcome State Fault Refusal := .next (present .read 0 (.ok buildRead) s)

/-- `ABC on` (R132): `CmdIssue(1, arg)` with `arg != 0`. -/
def execAbcOn (s : State) : Host.Outcome State Fault Refusal := .next (present .abc 1 (.ok (buildAbc true)) s)

/-- `ABC off` (R132): `CmdIssue(1, 0)`. -/
def execAbcOff (s : State) : Host.Outcome State Fault Refusal := .next (present .abc 0 (.ok (buildAbc false)) s)

/-- `ZERO` (R133): `CmdIssue(2, arg)`, `arg` ignored. -/
def execZero (s : State) : Host.Outcome State Fault Refusal := .next (present .zero 0 (.ok buildZero) s)

/-- `SPAN span` (R134): `CmdIssue(3, span)`; a span outside 0 to 65535 raises `INVALID_ARGUMENT`. -/
def execSpan (span : Int) (s : State) : Host.Outcome State Fault Refusal :=
  .next (present .span span (buildSpan span) s)

/-- `RANGE 5000` (R135): `CmdIssue(4, 5000)`. -/
def execRange5000 (s : State) : Host.Outcome State Fault Refusal := .next (present .range 5000 (buildRange 5000) s)

/-- `RANGE 2000` (R135): `CmdIssue(4, 2000)`. -/
def execRange2000 (s : State) : Host.Outcome State Fault Refusal := .next (present .range 2000 (buildRange 2000) s)

end Sys2Proof.Machine
end

