-- ==== Sys2Proof/Machine/Response.lean ====
section
/-! DEFINITION. Parsing the read response (43_parse_response.md), and the meaning of the row `RESP_READ`. -/

namespace Sys2Proof.Machine

/-- `ParseReadResponse(r)` (R150), defined on every byte list (R154). The response checksum is not looked at (R153). -/
def parseReadResponse (r : List Byte) : Except ErrorKind Word16 :=
  match r with
  | b0 :: b1 :: hi :: lo :: _ =>
    if b0 = Config.start ∧ b1 = Config.cmdRead then .ok (join16 hi lo) else .error .malformedResponse
  | _ => .error .malformedResponse

/-- `RESP_READ` (R150, R170): the response phase ends with an acceptable response, and the reading is recorded.
The bytes from offset 4 on influence nothing (R152). Outside phase `RX` the block takes no response: it has no
such step (R160), and nothing changes (log 7). -/
def execRespRead (hi lo : Byte) (s : State) : Host.Outcome State Fault Refusal :=
  .next (if s.phase = .rx then acceptReading (join16 hi lo) s else s)

end Sys2Proof.Machine
end

