-- ==== Sys2Proof/Machine/Dispatch.lean ====
section
/-! DEFINITION. The meaning of every row of the opcode table, one arm each. -/

namespace Sys2Proof.Machine

def exec (i : Instr) (s : State) : Host.Outcome State Fault Refusal :=
  match i with
  | .read => Sys2Proof.Machine.execRead s
  | .abcOn => Sys2Proof.Machine.execAbcOn s
  | .abcOff => Sys2Proof.Machine.execAbcOff s
  | .zero => Sys2Proof.Machine.execZero s
  | .span v => Sys2Proof.Machine.execSpan v s
  | .range5000 => Sys2Proof.Machine.execRange5000 s
  | .range2000 => Sys2Proof.Machine.execRange2000 s
  | .respRead hi lo _ => Sys2Proof.Machine.execRespRead hi lo s

end Sys2Proof.Machine
end

