-- ==== Sys2Proof/Machine/Sequencer.lean ====
section
/-! DEFINITION. The events of the transaction sequencer (44_transaction.md) and Reset (R220). Each takes a state in
which it is enabled (R160); `Step.lean` sees to that. -/

namespace Sys2Proof.Machine

/-- `CmdIssue(op, arg)` (R161): the word's instruction is run. A word that names no row is rejected exactly like a
bad argument (R86, R135). -/
def cmdIssue (op : BitVec 3) (arg : Int) (s : State) : Host.Outcome State Fault Refusal :=
  match decodePort op arg with
  | .ok i => exec i s
  | .error _ => .next (raise .invalidArgument (dropReading s))

/-- `TxByte` (R163). -/
def txByte (s : State) : Host.Outcome State Fault Refusal :=
  if h : s.txi.val < 9 then
    .next (
      if s.txi.val + 1 = 9 then
        if s.curOp = .read then enterRx (sendByte s h) else endOk (sendByte s h)
      else sendByte s h)
  else .fault .txPastFrame

/-- `TxFail` (R164): the bytes that went out are not recalled. -/
def txFail (s : State) : Host.Outcome State Fault Refusal := .next (raise .transportError s)

/-- `Finish()` (R170): the received bytes are decoded as a response. An acceptable one is the instruction
`RESP_READ`, which is run; anything else raises `MALFORMED_RESPONSE`. -/
def finish (s : State) : Host.Outcome State Fault Refusal :=
  match decodeResponse (received s) with
  | .ok i => exec i s
  | .error _ => .next (raise .malformedResponse s)

/-- `RxByte(b)` (R166): after the ninth byte the read is complete, in the same step. -/
def rxByte (b : Byte) (s : State) : Host.Outcome State Fault Refusal :=
  if h : s.rxn.val < 9 then
    if s.rxn.val + 1 = 9 then finish (storeByte b s h) else .next (storeByte b s h)
  else .fault .rxPastBuffer

/-- `RxTimeout` (R167): not an error of its own (R208). -/
def rxTimeout (s : State) : Host.Outcome State Fault Refusal := finish s

/-- `RxFail` (R169): what arrived is kept and not parsed. -/
def rxFail (s : State) : Host.Outcome State Fault Refusal := .next (raise .transportError s)

/-- `Reset` (R220). -/
def resetEvent (s : State) : Host.Outcome State Fault Refusal := .next (resetRegisters s)

/-- One event. -/
def perform (e : Event) (s : State) : Host.Outcome State Fault Refusal :=
  match e with
  | .cmdIssue op arg => cmdIssue op arg s
  | .txByte => txByte s
  | .txFail => txFail s
  | .rxByte b => rxByte b s
  | .rxTimeout => rxTimeout s
  | .rxFail => rxFail s
  | .reset => resetEvent s

end Sys2Proof.Machine
end

