-- ==== Sys2Proof/Machine/Step.lean ====
section
/-! DEFINITION. One step: one atomic event (R62), the first pending one that is enabled. -/

namespace Sys2Proof.Machine

/-- One step. The block never steps on its own (R160): where no pending event is enabled, nothing happens (log 2). -/
def step (s : State) : Host.Outcome State Fault Refusal :=
  match takeEnabled s.phase s.pending with
  | none => .next s
  | some (e, rest) => perform e { s with pending := rest }

/-- `s` with a table word laid where the next step takes its instruction from (log 11). -/
def State.withFetchWord (s : State) (nbits w : Nat) : State := placeWord nbits w s

end Sys2Proof.Machine
end

