-- ==== Sys2Proof/Safety.lean ====
section
/-! DEFINITION. What claims are stated in: the invariants of R32, the states a run reaches, the states two runs may
differ in, and the length of an operation. -/

namespace Sys2Proof.Machine

/-- The invariants V2 to V6 of R32, one field for each clause; V1 is in the types of `phase`, `txi` and `rxn`.
`built` is not in R32's list: it says that what is being sent is a frame of the operation in progress (R23, R161),
without which V3 is not kept by a step. -/
structure Inv (s : State) : Prop where
  /-- V2 -/
  txPhase : s.phase = .tx → s.txi.val ≤ 8 ∧ s.rxn.val = 0 ∧ s.status = .none ∧ s.co2Valid = false
  /-- V3 -/
  rxPhase : s.phase = .rx → s.curOp = .read ∧ s.txi.val = 9 ∧ s.rxn.val ≤ 8 ∧ s.status = .none ∧
    s.co2Valid = false ∧ s.txf = #v[0xFF, 0x01, 0x86, 0x00, 0x00, 0x00, 0x00, 0x00, 0x79]
  /-- V4 -/
  framed : s.phase ≠ .idle → s.txf[0] = 0xFF ∧ s.txf[1] = 0x01 ∧ s.txf[8] = checksum (frameBody s.txf)
  /-- V5 -/
  doneIdle : s.status ≠ .none → s.phase = .idle
  /-- V6 -/
  validReading : s.co2Valid = true → s.status = .ok ∧ s.phase = .idle ∧ s.curOp = .read ∧ 4 ≤ s.rxn.val ∧
    s.rxb[0] = 0xFF ∧ s.rxb[1] = 0x86 ∧ s.co2.toNat = s.rxb[2].toNat * 256 + s.rxb[3].toNat
  /-- The frame in `txf` is one `Build` gives for the operation in progress. -/
  built : s.phase ≠ .idle → ∃ arg, build s.curOp.code arg = .ok s.txf

/-- The bytes the TX stream ends with are those handed over of the frame: exactly `txf[0..txi-1]` (R196). -/
def SentOnStream (s : State) : Prop := s.txf.toList.take s.txi.val <:+ s.txStream

/-- The states of a run: from reset, by steps, the agents changing at any time what they have ready. -/
inductive Reachable : State → Prop where
  | reset : Reachable State.reset
  | agents {s : State} (pending : List Event) : Reachable s → Reachable { s with pending := pending }
  | step {s t : State} : Reachable s → step s = .next t → Reachable t

/-- Two states that differ at most in what no rule reads: registers an earlier operation left, bytes sent before,
and the free values' counter (R32 V7, R176). -/
structure SameWork (s t : State) : Prop where
  phase : s.phase = t.phase
  pending : s.pending = t.pending
  status : s.status = t.status
  co2Valid : s.co2Valid = t.co2Valid
  co2 : s.co2Valid = true → s.co2 = t.co2
  sending : s.phase = .tx → s.curOp = t.curOp ∧ s.txf = t.txf ∧ s.txi = t.txi
  receiving : s.phase ≠ .idle → s.rxn = t.rxn ∧ received s = received t

/-- How many more events the operation in progress can take: the frame bytes to come and nine response bytes, or
the response bytes to come (R174). -/
def eventsLeft (s : State) : Nat :=
  match s.phase with
  | .idle => 0
  | .tx => 9 - s.txi.val + 9
  | .rx => 9 - s.rxn.val

/-- The event is a command of the host. -/
def Event.isCommand : Event → Bool
  | .cmdIssue _ _ => true
  | _ => false

/-- The event is the delivery of a byte. -/
def Event.isRxByte : Event → Bool
  | .rxByte _ => true
  | _ => false

/-- The event is one of the receive side. -/
def Event.isReceive : Event → Bool
  | .rxByte _ | .rxTimeout | .rxFail => true
  | _ => false

/-- The commands waiting at the port (R162). -/
def waitingCommands (pending : List Event) : List Event :=
  pending.filter fun e => e.isCommand

/-- What the transport has ready on the receive side (R55). -/
def waitingResponse (pending : List Event) : List Event :=
  pending.filter fun e => e.isReceive

/-- Some event is ready that the block can take now. -/
def someEnabled (s : State) : Bool := s.pending.any (enabled s.phase)

end Sys2Proof.Machine
end

