-- ==== Sys2Proof/Certificates/Slice0/Obligations.lean ====
section
/-! DEFINITION. The statements for the provers. OBLIGATIONS.json lists them with the rules they formalise. A next
state is written out as a record update wherever the rule fixes it, so that it says the frame too: what is not named
is unchanged. -/

open Sys2Proof Sys2Proof.Machine

/-! ### Encodings -/

/-- Decoding the encoding of a well-formed instruction gives it back, with every operand the encoding admits. -/
def Obligations.DecodeOfEncode : Prop :=
  ∀ i : Instr, i.wellFormed = true → decode (encode i) = .ok i

/-- Bytes that decode are the encoding of the well-formed instruction they decode to: each has one meaning. -/
def Obligations.EncodeOfDecode : Prop :=
  ∀ (bytes : List Byte) (i : Instr), decode bytes = .ok i → i.wellFormed = true ∧ encode i = bytes

/-- R85 and opcode_table.json: a 72-bit word is of a row, by the row's mask and match, exactly when it decodes to an
instruction of that row. (That the free checksum bits of a SPAN word are filled in is the model's choice, log 10.) -/
def Obligations.DecodeAgreesWithOpcodeTable : Prop :=
  ∀ (w : BitVec 72) (r : TableRow), r ∈ opcodeTable →
    (w &&& r.mask = r.pattern ↔ ∃ i : Instr, decodeTableWord 72 w.toNat = some i ∧ i.row = r)

/-- R80: bit `k` of the byte at offset `i` is frame bit `64 - 8*i + k`, and the word gives the frame back. -/
def Obligations.FrameBitPlaces : Prop :=
  ∀ f : Frame, frameOfBits (frameBits f) = f ∧
    ∀ (i : Fin 9) (k : Fin 8), (frameBits f).getLsbD (64 - 8 * i.val + k.val) = f[i].getLsbD k.val

/-- A word of each of the five operations and a response, written out from R85, decode to the instructions they stand for. -/
def Obligations.WrittenOutFramesDecode : Prop :=
  decode [0xFF, 0x01, 0x86, 0, 0, 0, 0, 0, 0x79] = .ok .read ∧
  decode [0xFF, 0x01, 0x79, 0xA0, 0, 0, 0, 0, 0xE6] = .ok .abcOn ∧
  decode [0xFF, 0x01, 0x87, 0, 0, 0, 0, 0, 0x78] = .ok .zero ∧
  decode [0xFF, 0x01, 0x88, 0x12, 0x34, 0, 0, 0, 0x31] = .ok (.span 4660) ∧
  decode [0xFF, 0x01, 0x99, 0, 0, 0, 0x07, 0xD0, 0x8F] = .ok .range2000 ∧
  decode [0xFF, 0x86, 0x01, 0xA0, 0xDE, 0xAD, 0xBE, 0xEF, 0x00] =
    .ok (.respRead 0x01 0xA0 [0xDE, 0xAD, 0xBE, 0xEF, 0x00])

/-- R83, R86, R89: what each command word presents; `arg` is ignored by `READ` and `ZERO`, only zero or not matters
to `ABC`, and the reserved codes and the other ranges present nothing. -/
def Obligations.PortWordsPresentTheirRows : Prop :=
  ∀ arg : Int,
    decodePort 0 arg = .ok .read ∧
    decodePort 1 0 = .ok .abcOff ∧ (arg ≠ 0 → decodePort 1 arg = .ok .abcOn) ∧
    decodePort 2 arg = .ok .zero ∧
    decodePort 3 arg = .ok (.span arg) ∧
    decodePort 4 5000 = .ok .range5000 ∧ decodePort 4 2000 = .ok .range2000 ∧
    (arg ≠ 5000 → arg ≠ 2000 → decodePort 4 arg = .error (.unsupportedRange arg)) ∧
    ∀ op : BitVec 3, 5 ≤ op.toNat → decodePort op arg = .error (.reservedOp op)

/-! ### The function layer -/

/-- R111: the checksum is the two's complement of the sum, in each of the forms the rule gives. -/
def Obligations.ChecksumIsTwosComplement : Prop :=
  ∀ b : Body,
    ((checksum b).toNat : Int) = -(bodySum b : Int) % 256 ∧
    (checksum b).toNat = (256 - bodySum b % 256) % 256 ∧
    checksum b = ~~~(BitVec.ofNat 8 (bodySum b % 256)) + 1 ∧
    BitVec.ofNat 8 (bodySum b % 256) = b[0] + b[1] + b[2] + b[3] + b[4] + b[5] + b[6]

/-- R112: the serial form, with an 8-bit accumulator. -/
def Obligations.ChecksumSerialForm : Prop :=
  ∀ b : Body, checksum b = 0 - b.toList.foldl (fun acc x => acc + x) 0

/-- R113: the laws L1 to L7 of the checksum, in that order. -/
def Obligations.ChecksumLaws : Prop :=
  (∀ b : Body, (bodySum b + (checksum b).toNat) % 256 = 0) ∧
  (∀ (op : BitVec 3) (arg : Int) (f : Frame), build op arg = .ok f →
    (f[1].toNat + f[2].toNat + f[3].toNat + f[4].toNat + f[5].toNat + f[6].toNat + f[7].toNat + f[8].toNat) % 256
      = 0 ∧ checksum (frameBody f) = f[8]) ∧
  (∀ b c : Body, b.toList.Perm c.toList → checksum b = checksum c) ∧
  (∀ cmd : Byte, checksum #v[0x01, cmd, 0, 0, 0, 0, 0] = -(0x01 + cmd) ∧
    checksum #v[0x01, cmd, 0, 0, 0, 0, 0] = 0xFF - cmd) ∧
  ((∃ b c : Body, b ≠ c ∧ bodySum b + 256 = bodySum c) ∧
    (∀ b c : Body, bodySum b + 256 = bodySum c → checksum b = checksum c) ∧
    ∀ (b : Body) (i j : Fin 7) (d : Byte), i ≠ j →
      checksum ((b.set i (b[i] + d)).set j (b[j] - d)) = checksum b) ∧
  (∀ (b : Body) (i : Fin 7) (x : Byte), x ≠ b[i] → checksum (b.set i x) ≠ checksum b) ∧
  (∀ c : Byte, ∃ b : Body, checksum b = c)

/-- R120 to R122: the values of the splitter and the joiner, and that they are inverse to each other. -/
def Obligations.SplitJoinInverse : Prop :=
  (∀ v : Word16, (split16 v).1.toNat = v.toNat / 256 ∧ (split16 v).2.toNat = v.toNat % 256 ∧
    join16 (split16 v).1 (split16 v).2 = v) ∧
  (∀ hi lo : Byte, (join16 hi lo).toNat = hi.toNat * 256 + lo.toNat ∧ split16 (join16 hi lo) = (hi, lo))

/-- R131 to R136: the frame, or the error, of every operation and every argument. -/
def Obligations.BuildFrames : Prop :=
  ∀ arg : Int,
    build 0 arg = .ok #v[0xFF, 0x01, 0x86, 0x00, 0x00, 0x00, 0x00, 0x00, 0x79] ∧
    (arg ≠ 0 → build 1 arg = .ok #v[0xFF, 0x01, 0x79, 0xA0, 0x00, 0x00, 0x00, 0x00, 0xE6]) ∧
    build 1 0 = .ok #v[0xFF, 0x01, 0x79, 0x00, 0x00, 0x00, 0x00, 0x00, 0x86] ∧
    build 2 arg = .ok #v[0xFF, 0x01, 0x87, 0x00, 0x00, 0x00, 0x00, 0x00, 0x78] ∧
    (0 ≤ arg → arg ≤ 65535 → build 3 arg = .ok
      #v[0xFF, 0x01, 0x88, BitVec.ofInt 8 (arg / 256), BitVec.ofInt 8 (arg % 256), 0x00, 0x00, 0x00,
        0x77 - BitVec.ofInt 8 (arg / 256) - BitVec.ofInt 8 (arg % 256)]) ∧
    (arg < 0 ∨ 65535 < arg → build 3 arg = .error .invalidArgument) ∧
    build 4 5000 = .ok #v[0xFF, 0x01, 0x99, 0x00, 0x00, 0x00, 0x13, 0x88, 0xCB] ∧
    build 4 2000 = .ok #v[0xFF, 0x01, 0x99, 0x00, 0x00, 0x00, 0x07, 0xD0, 0x8F] ∧
    (arg ≠ 5000 → arg ≠ 2000 → build 4 arg = .error .invalidArgument) ∧
    ∀ op : BitVec 3, 5 ≤ op.toNat → build op arg = .error .invalidArgument

/-- R137: what every built frame is, and how many there are. -/
def Obligations.BuiltFrameShape : Prop :=
  (∀ (op : BitVec 3) (arg : Int) (f : Frame), build op arg = .ok f →
    f[0] = 0xFF ∧ f[1] = 0x01 ∧ f[8] = checksum (frameBody f) ∧
    (f[1].toNat + f[2].toNat + f[3].toNat + f[4].toNat + f[5].toNat + f[6].toNat + f[7].toNat + f[8].toNat) % 256 = 0 ∧
    (op = 0 ∧ f[2] = 0x86 ∨ op = 1 ∧ f[2] = 0x79 ∨ op = 2 ∧ f[2] = 0x87 ∨ op = 3 ∧ f[2] = 0x88 ∨
      op = 4 ∧ f[2] = 0x99) ∧
    ∃ i : Instr, portOf i ≠ none ∧ i.wellFormed = true ∧ encode i = f.toList) ∧
  Set.ncard { f : Frame | ∃ (op : BitVec 3) (arg : Int), build op arg = .ok f } = 65542

/-- R92: the frame of an accepted command decodes to the instruction of the command word, so two accepted commands
with one frame are the same command. -/
def Obligations.FramesTellCommandsApart : Prop :=
  (∀ (op : BitVec 3) (arg : Int) (f : Frame), build op arg = .ok f →
    ∃ i : Instr, decodePort op arg = .ok i ∧ decode f.toList = .ok i) ∧
  (∀ (op op' : BitVec 3) (arg arg' : Int) (f : Frame), build op arg = .ok f → build op' arg' = .ok f →
    op = op' ∧ decodePort op arg = decodePort op' arg')

/-- R138: of every command, the literal bytes of the table, the frame `Build` gives, and the frame computed with
`MkFrame` from its fields are the same; the two `RANGE` frames, which the builder stores, are written out. -/
def Obligations.BuilderAgreesWithEncoder : Prop :=
  (∀ (i : Instr) (op : BitVec 3) (arg : Int), i.wellFormed = true → portOf i = some (op, arg) →
    ∃ f : Frame, build op arg = .ok f ∧ computedFrame i = some f ∧ f.toList = encode i) ∧
  buildRange 5000 = .ok (mkFrame 0x99 0x00 0x00 0x00 0x13 0x88) ∧
  buildRange 2000 = .ok (mkFrame 0x99 0x00 0x00 0x00 0x07 0xD0)

/-- R150 (and the cases R151 lists): which responses are accepted, with which reading, and that every other one is `Malformed`. -/
def Obligations.ParseAcceptsExactly : Prop :=
  ∀ r : List Byte,
    (∀ v : Word16, parseReadResponse r = .ok v ↔
      4 ≤ r.length ∧ r[0]? = some 0xFF ∧ r[1]? = some 0x86 ∧
        ∃ hi lo : Byte, r[2]? = some hi ∧ r[3]? = some lo ∧ v.toNat = hi.toNat * 256 + lo.toNat) ∧
    (parseReadResponse r = .error .malformedResponse ↔
      r.length < 4 ∨ r[0]? ≠ some 0xFF ∨ r[1]? ≠ some 0x86)

/-- R152: bytes from offset 4 on influence nothing; and the source's round trip (in R156). -/
def Obligations.ParseIgnoresTail : Prop :=
  (∀ (a b c d : Byte) (t u : List Byte),
    parseReadResponse ([a, b, c, d] ++ t) = parseReadResponse ([a, b, c, d] ++ u)) ∧
  (∀ hi lo : Byte, ∃ v : Word16, parseReadResponse [0xFF, 0x86, hi, lo, 0, 0, 0, 0, 0] = .ok v ∧
    v.toNat = hi.toNat * 256 + lo.toNat)

/-! ### What the instructions do -/

/-- The commands without an operand, issued in `IDLE`: each completes its `CmdIssue`, and nothing but the registers
named changes (R161 with R131, R132, R133, R135). -/
def Obligations.FixedCommandsComplete : Prop :=
  ∀ s : State, s.phase = .idle →
    exec .read s = .next { s with
      co2Valid := false, txf := #v[0xFF, 0x01, 0x86, 0x00, 0x00, 0x00, 0x00, 0x00, 0x79]
      txi := 0, rxn := 0, curOp := .read, status := .none, phase := .tx } ∧
    exec .abcOn s = .next { s with
      co2Valid := false, txf := #v[0xFF, 0x01, 0x79, 0xA0, 0x00, 0x00, 0x00, 0x00, 0xE6]
      txi := 0, rxn := 0, curOp := .abc, status := .none, phase := .tx } ∧
    exec .abcOff s = .next { s with
      co2Valid := false, txf := #v[0xFF, 0x01, 0x79, 0x00, 0x00, 0x00, 0x00, 0x00, 0x86]
      txi := 0, rxn := 0, curOp := .abc, status := .none, phase := .tx } ∧
    exec .zero s = .next { s with
      co2Valid := false, txf := #v[0xFF, 0x01, 0x87, 0x00, 0x00, 0x00, 0x00, 0x00, 0x78]
      txi := 0, rxn := 0, curOp := .zero, status := .none, phase := .tx } ∧
    exec .range5000 s = .next { s with
      co2Valid := false, txf := #v[0xFF, 0x01, 0x99, 0x00, 0x00, 0x00, 0x13, 0x88, 0xCB]
      txi := 0, rxn := 0, curOp := .range, status := .none, phase := .tx } ∧
    exec .range2000 s = .next { s with
      co2Valid := false, txf := #v[0xFF, 0x01, 0x99, 0x00, 0x00, 0x00, 0x07, 0xD0, 0x8F]
      txi := 0, rxn := 0, curOp := .range, status := .none, phase := .tx }

/-- `SPAN` with a supported value, issued in `IDLE`: high byte first, checksum in R134's closed form; nothing but the
registers named changes. -/
def Obligations.SpanInRangeCompletes : Prop :=
  ∀ (s : State) (span : Int), s.phase = .idle → 0 ≤ span → span ≤ 65535 →
    exec (.span span) s = .next { s with
      co2Valid := false
      txf := #v[0xFF, 0x01, 0x88, BitVec.ofInt 8 (span / 256), BitVec.ofInt 8 (span % 256), 0x00, 0x00, 0x00,
        0x77 - BitVec.ofInt 8 (span / 256) - BitVec.ofInt 8 (span % 256)]
      txi := 0, rxn := 0, curOp := .span, status := .none, phase := .tx }

/-- `SPAN` with any other value, issued in `IDLE`: `INVALID_ARGUMENT`, no byte is formed or sent, and nothing but
`status` and `co2_valid` changes. -/
def Obligations.SpanOutOfRangeRejected : Prop :=
  ∀ (s : State) (span : Int), s.phase = .idle → span < 0 ∨ 65535 < span →
    exec (.span span) s = .next { s with co2Valid := false, status := .invalidArgument }

/-- `RESP_READ` at the end of a response phase: the reading is the two value bytes, high byte first, whatever the
ignored bytes are; nothing but the registers named changes. -/
def Obligations.RespReadCompletes : Prop :=
  ∀ (s : State) (hi lo : Byte) (ignored : List Byte), s.phase = .rx →
    ∃ v : Word16, v.toNat = hi.toNat * 256 + lo.toNat ∧
      exec (.respRead hi lo ignored) s =
        .next { s with co2 := v, co2Valid := true, status := .ok, phase := .idle }

/-- R162: a command presented while busy waits at the port and changes no register. (That it waits behind what the
host presented earlier is the model's choice, log 6.) -/
def Obligations.BusyCommandWaits : Prop :=
  ∀ (s : State) (i : Instr) (op : BitVec 3) (arg : Int), s.phase ≠ .idle → portOf i = some (op, arg) →
    exec i s = .next { s with pending := s.pending ++ [.cmdIssue op arg] }

/-- R160: outside phase `RX` there is no step that takes a response (that nothing changes is the model's choice,
log 7). -/
def Obligations.NoResponseOutsideRx : Prop :=
  ∀ (s : State) (hi lo : Byte) (ignored : List Byte), s.phase ≠ .rx →
    exec (.respRead hi lo ignored) s = .next s

/-! ### What the events do -/

/-- R160: the table of enabled events. -/
def Obligations.EnabledEvents : Prop :=
  ∀ e : Event,
    (enabled .idle e = true ↔ (∃ op arg, e = .cmdIssue op arg) ∨ e = .reset) ∧
    (enabled .tx e = true ↔ e = .txByte ∨ e = .txFail ∨ e = .reset) ∧
    (enabled .rx e = true ↔ (∃ b, e = .rxByte b) ∨ e = .rxTimeout ∨ e = .rxFail ∨ e = .reset)

/-- R161: when `CmdIssue` is enabled, when it raises `InvalidArgument`, and its effect by what `Build` gives. -/
def Obligations.CmdIssueFollowsBuild : Prop :=
  ∀ (s : State) (op : BitVec 3) (arg : Int),
    (enabled s.phase (.cmdIssue op arg) = true ↔ s.phase = .idle) ∧
    (build op arg = .error .invalidArgument ↔
      op = 3 ∧ (arg < 0 ∨ 65535 < arg) ∨ op = 4 ∧ arg ≠ 2000 ∧ arg ≠ 5000 ∨ 5 ≤ op.toNat) ∧
    (s.phase = .idle →
      (∀ e, build op arg = .error e → e = .invalidArgument ∧
        perform (.cmdIssue op arg) s = .next { s with co2Valid := false, status := .invalidArgument }) ∧
      (∀ f, build op arg = .ok f → ∃ o : Op, o.code = op ∧
        perform (.cmdIssue op arg) s = .next { s with
          co2Valid := false, txf := f, txi := 0, rxn := 0, curOp := o, status := .none, phase := .tx }))

/-- R163: when `TxByte` is enabled, and what it does with `txi` = `n`. -/
def Obligations.TxByteSendsNextByte : Prop :=
  ∀ s : State,
    (enabled s.phase .txByte = true ↔ s.phase = .tx) ∧
    ∀ n : Fin 9, s.phase = .tx → s.txi = n.castSucc →
      (n.val < 8 → perform .txByte s = .next { s with txStream := s.txStream ++ [s.txf[n]], txi := n.succ }) ∧
      (n.val = 8 → s.curOp = .read →
        perform .txByte s = .next { s with txStream := s.txStream ++ [s.txf[n]], txi := n.succ, phase := .rx }) ∧
      (n.val = 8 → s.curOp ≠ .read →
        perform .txByte s = .next { s with
          txStream := s.txStream ++ [s.txf[n]], txi := n.succ, phase := .idle, status := .ok })

/-- R164, R169: when a transport failure is enabled; it ends the operation and nothing else is written. -/
def Obligations.TransportFailureEndsOperation : Prop :=
  ∀ s : State,
    (enabled s.phase .txFail = true ↔ s.phase = .tx) ∧ (enabled s.phase .rxFail = true ↔ s.phase = .rx) ∧
    (s.phase = .tx → perform .txFail s = .next { s with status := .transportError, phase := .idle }) ∧
    (s.phase = .rx → perform .rxFail s = .next { s with status := .transportError, phase := .idle })

/-- R166: when `RxByte(b)` is enabled, and what it does with `rxn` = `n`; after the ninth byte the nine are parsed in
the same step. -/
def Obligations.RxByteStoresThenParses : Prop :=
  ∀ (s : State) (b : Byte),
    (enabled s.phase (.rxByte b) = true ↔ s.phase = .rx) ∧
    ∀ n : Fin 9, s.phase = .rx → s.rxn = n.castSucc →
      (n.val < 8 → perform (.rxByte b) s = .next { s with rxb := s.rxb.set n b, rxn := n.succ }) ∧
      (n.val = 8 →
        (∀ v, parseReadResponse (s.rxb.set n b).toList = .ok v →
          perform (.rxByte b) s = .next { s with
            rxb := s.rxb.set n b, rxn := n.succ, co2 := v, co2Valid := true, status := .ok, phase := .idle }) ∧
        (∀ e, parseReadResponse (s.rxb.set n b).toList = .error e →
          perform (.rxByte b) s = .next { s with
            rxb := s.rxb.set n b, rxn := n.succ, status := .malformedResponse, phase := .idle }))

/-- R167: when `RxTimeout` is enabled; it parses the bytes received so far and no other, so that the response is
malformed with fewer than four bytes or a wrong byte, and else a reading. -/
def Obligations.RxTimeoutParsesReceived : Prop :=
  ∀ s : State,
    (enabled s.phase .rxTimeout = true ↔ s.phase = .rx) ∧
    (s.phase = .rx →
      (∀ v, parseReadResponse (s.rxb.toList.take s.rxn.val) = .ok v →
        perform .rxTimeout s = .next { s with co2 := v, co2Valid := true, status := .ok, phase := .idle }) ∧
      (∀ e, parseReadResponse (s.rxb.toList.take s.rxn.val) = .error e →
        perform .rxTimeout s = .next { s with status := .malformedResponse, phase := .idle }) ∧
      (s.rxn.val ≤ 3 ∨ s.rxb[0] ≠ 0xFF ∨ s.rxb[1] ≠ 0x86 →
        perform .rxTimeout s = .next { s with status := .malformedResponse, phase := .idle }) ∧
      (4 ≤ s.rxn.val → s.rxb[0] = 0xFF → s.rxb[1] = 0x86 →
        ∃ v : Word16, v.toNat = s.rxb[2].toNat * 256 + s.rxb[3].toNat ∧
          perform .rxTimeout s = .next { s with co2 := v, co2Valid := true, status := .ok, phase := .idle }))

/-- R220: `Reset` is enabled in every state, and what it leaves; the registers it leaves unspecified may hold
anything. -/
def Obligations.ResetFromAnyState : Prop :=
  ∀ s : State, enabled s.phase .reset = true ∧ ∃ t : State, perform .reset s = .next t ∧
    t.phase = .idle ∧ t.status = .none ∧ t.co2Valid = false ∧ t.txi = 0 ∧ t.rxn = 0 ∧
    t.txStream = s.txStream ∧ t.pending = s.pending ∧ t.cmdReady = true ∧ t.busy = false ∧ t.done = false

/-- R33: what reset leaves, for the registers to which the rule gives a value. -/
def Obligations.ResetValues : Prop :=
  State.reset.phase = .idle ∧ State.reset.status = .none ∧ State.reset.co2Valid = false ∧
  State.reset.txi = 0 ∧ State.reset.rxn = 0 ∧
  State.reset.busy = false ∧ State.reset.cmdReady = true ∧ State.reset.done = false

/-! ### The step -/

/-- A step performs the first enabled pending event and leaves the others pending in their order; with none enabled
it changes nothing (the choice of the first, and that nothing changes, are the model's: log 1, log 2). -/
def Obligations.StepTakesFirstEnabled : Prop :=
  ∀ s : State,
    (∀ (before : List Event) (e : Event) (after : List Event), s.pending = before ++ e :: after →
      (∀ x ∈ before, enabled s.phase x = false) → enabled s.phase e = true →
      step s = perform e { s with pending := before ++ after }) ∧
    ((∀ x ∈ s.pending, enabled s.phase x = false) → step s = .next s)

/-- A step runs the instruction it decodes: a command word at the port of an idle block, and a response at the
ninth byte or at the timeout. -/
def Obligations.StepRunsDecodedInstruction : Prop :=
  ∀ (s : State) (i : Instr) (rest : List Event),
    (∀ op arg, s.phase = .idle → s.pending = .cmdIssue op arg :: rest → decodePort op arg = .ok i →
      step s = exec i { s with pending := rest }) ∧
    (∀ b, s.phase = .rx → s.rxn = 8 → s.pending = .rxByte b :: rest →
      decodeResponse (s.rxb.set 8 b).toList = .ok i →
      step s = exec i { s with pending := rest, rxb := s.rxb.set 8 b, rxn := 9 }) ∧
    (s.phase = .rx → s.pending = .rxTimeout :: rest →
      decodeResponse (s.rxb.toList.take s.rxn.val) = .ok i → step s = exec i { s with pending := rest })

/-- The word the host places is the instruction the next step runs (where it is placed is the model's choice,
log 11). -/
def Obligations.StepRunsPlacedWord : Prop :=
  ∀ (s : State) (nbits w : Nat) (i : Instr), decodeTableWord nbits w = some i →
    (portOf i ≠ none → step (s.withFetchWord nbits w) = exec i { s with phase := .idle }) ∧
    (portOf i = none → ∃ t : State, t.phase = .rx ∧ t.rxn = 9 ∧ t.pending = s.pending ∧ t.txStream = s.txStream ∧
      decodeResponse (received t) = .ok i ∧ step (s.withFetchWord nbits w) = exec i t)

/-- R20's column "written by": which events change which register. -/
def Obligations.RegistersHaveTheirWriters : Prop :=
  ∀ (s t : State) (e : Event) (rest : List Event), takeEnabled s.phase s.pending = some (e, rest) → step s = .next t →
    (t.curOp ≠ s.curOp → e.isCommand = true ∨ e = .reset) ∧
    (t.txf ≠ s.txf → e.isCommand = true ∨ e = .reset) ∧
    (t.txi ≠ s.txi → e.isCommand = true ∨ e = .txByte ∨ e = .reset) ∧
    (t.rxb ≠ s.rxb → e.isRxByte = true ∨ e = .reset) ∧
    (t.rxn ≠ s.rxn → e.isCommand = true ∨ e.isRxByte = true ∨ e = .reset) ∧
    (t.co2 ≠ s.co2 → e.isRxByte = true ∨ e = .rxTimeout ∨ e = .reset) ∧
    (t.co2Valid ≠ s.co2Valid → e.isCommand = true ∨ e.isRxByte = true ∨ e = .rxTimeout ∨ e = .reset) ∧
    (t.txStream ≠ s.txStream → e = .txByte)

/-- R190 to R193: which event reports which error. -/
def Obligations.ErrorsHaveTheirCauses : Prop :=
  ∀ (s t : State) (e : Event), enabled s.phase e = true → s.status = .none → perform e s = .next t →
    (t.status = .invalidArgument ↔ ∃ op arg, e = .cmdIssue op arg ∧ build op arg = .error .invalidArgument) ∧
    (t.status = .transportError ↔ e = .txFail ∨ e = .rxFail) ∧
    (t.status = .malformedResponse ↔
      e = .rxTimeout ∧ parseReadResponse (received s) = .error .malformedResponse ∨
      ∃ b, e = .rxByte b ∧ s.rxn = 8 ∧ parseReadResponse (s.rxb.set 8 b).toList = .error .malformedResponse)

/-- R197: an error needs no acknowledgement: the next command does the same whatever `status` was. -/
def Obligations.NoAcknowledgementNeeded : Prop :=
  ∀ (s : State) (st : Status) (op : BitVec 3) (arg : Int), s.phase = .idle →
    perform (.cmdIssue op arg) { s with status := st } = perform (.cmdIssue op arg) s

/-- R172, R175: no retry and no pipelining: from `RX` there is no way back to `TX`, and in `TX` the frame, the
operation and the count only move forward. -/
def Obligations.NoRetryNoPipelining : Prop :=
  ∀ s t : State, step s = .next t →
    (s.phase = .rx → t.phase ≠ .tx) ∧
    (s.phase = .tx → t.phase ≠ .idle → t.txf = s.txf ∧ t.curOp = s.curOp ∧ s.txi.val ≤ t.txi.val) ∧
    (t.phase = .rx → s.phase ≠ .rx → s.phase = .tx ∧ s.curOp = .read ∧ s.txi.val = 8 ∧ t.txi.val = 9)

/-- R53: a step puts at most one byte on the TX stream, only in phase `TX`, and it is `txf[txi]`. -/
def Obligations.OnlyTheNextByteIsSent : Prop :=
  ∀ s t : State, step s = .next t → t.txStream ≠ s.txStream →
    s.phase = .tx ∧ ∃ n : Fin 9, s.txi = n.castSucc ∧ t.txi = n.succ ∧ t.txStream = s.txStream ++ [s.txf[n]]

/-- R162, R55: while the block is busy every waiting command stays at the port, and outside `RX` every response byte
stays with the transport, in their order. -/
def Obligations.AgentsAreHeld : Prop :=
  ∀ s t : State, step s = .next t →
    (s.phase ≠ .idle → waitingCommands t.pending = waitingCommands s.pending) ∧
    (s.phase ≠ .rx → waitingResponse t.pending = waitingResponse s.pending)

/-- R64 item 6, R171: the result changes only in the step in which the operation ends, and stays until a `CmdIssue`
or `Reset`. -/
def Obligations.ResultHeldUntilNextCommand : Prop :=
  ∀ s t : State, step s = .next t →
    (s.phase = .idle → (∀ x ∈ s.pending, x.isCommand = false ∧ x ≠ .reset) → t = s) ∧
    (s.phase ≠ .idle → t.phase ≠ .idle → t.status = s.status ∧ t.co2Valid = s.co2Valid ∧ t.co2 = s.co2)

/-! ### Invariants -/

/-- The invariants of R32 hold after reset. -/
def Obligations.InvariantsAtReset : Prop :=
  Inv State.reset ∧ SentOnStream State.reset

/-- Every step keeps the invariants of R32, from every state that meets them. -/
def Obligations.StepKeepsInvariants : Prop :=
  ∀ s t : State, Inv s → step s = .next t → Inv t

/-- R32, R196: the invariants hold in every state reachable from Reset, whatever the agents do. -/
def Obligations.ReachableStatesMeetInvariants : Prop :=
  ∀ s : State, Reachable s → Inv s ∧ SentOnStream s

/-- From a state that meets the invariants the machine never stops: every step answers a next state. The faults it
rules out are the model's (log 8), and where no event is enabled the next state is the same one (log 2). -/
def Obligations.InvariantsExcludeStops : Prop :=
  ∀ s : State, Inv s → ∃ t : State, step s = .next t

/-- R196: in every state the TX stream ends with exactly `txf[0..txi-1]`; every step keeps it. -/
def Obligations.StepKeepsSentOnStream : Prop :=
  ∀ s t : State, SentOnStream s → step s = .next t → SentOnStream t

/-- R32 V7, R176: what a step does to the work in hand, and what it sends, does not depend on registers an earlier
operation left. -/
def Obligations.NoValueFromEarlierOperations : Prop :=
  ∀ s t s' : State, SameWork s t → step s = .next s' →
    ∃ (t' : State) (sent : List Byte), step t = .next t' ∧ SameWork s' t' ∧
      s'.txStream = s.txStream ++ sent ∧ t'.txStream = t.txStream ++ sent

/-- R174: while an operation is in progress and the agents keep an event ready that the block can take, the
operation ends, within eighteen events. -/
def Obligations.OperationEndsUnderFairness : Prop :=
  ∀ s : State, Inv s →
    (∀ k t, k < 18 → Sys2Proof.core.run k s = .next t → t.phase ≠ .idle → someEnabled t = true) →
    ∃ (k : Nat) (t : State), k ≤ eventsLeft s ∧ k ≤ 18 ∧ Sys2Proof.core.run k s = .next t ∧ t.phase = .idle

/-! ### Whole operations (R176) -/

/-- R176, second row: `ABC`, `ZERO`, `SPAN`, `RANGE` with an accepted argument and a transport that takes all nine
bytes: ten steps, the frame on the TX stream, `OK`, no reading. -/
def Obligations.SendOnlyOperation : Prop :=
  ∀ (s : State) (op : BitVec 3) (arg : Int) (f : Frame) (rest : List Event),
    s.phase = .idle → op ≠ 0 → build op arg = .ok f →
    s.pending = .cmdIssue op arg :: (List.replicate 9 .txByte ++ rest) →
    ∃ o : Op, o.code = op ∧
      Sys2Proof.core.run 10 s = .next { s with
        pending := rest, txStream := s.txStream ++ f.toList, txf := f, txi := 9, rxn := 0, curOp := o
        co2Valid := false, status := .ok, phase := .idle }

/-- R176, third row: the transport takes `k` bytes and fails: those bytes are on the TX stream, `TRANSPORT_ERROR`,
no reading. -/
def Obligations.WriteFailureOperation : Prop :=
  ∀ (s : State) (op : BitVec 3) (arg : Int) (f : Frame) (k : Fin 9) (rest : List Event),
    s.phase = .idle → build op arg = .ok f →
    s.pending = .cmdIssue op arg :: (List.replicate k.val .txByte ++ .txFail :: rest) →
    ∃ o : Op, o.code = op ∧
      Sys2Proof.core.run (k.val + 2) s = .next { s with
        pending := rest, txStream := s.txStream ++ f.toList.take k.val, txf := f, txi := k.castSucc, rxn := 0
        curOp := o, co2Valid := false, status := .transportError, phase := .idle }

/-- R176, fourth and fifth row: a `READ` whose response is `r`, nine bytes, or fewer and then the timeout: the `READ`
frame on the TX stream and the result `ParseReadResponse` gives, whatever was in the registers before. -/
def Obligations.ReadOperation : Prop :=
  ∀ (s : State) (arg : Int) (r : List Byte) (stop rest : List Event),
    s.phase = .idle → (r.length = 9 ∧ stop = [] ∨ r.length ≤ 8 ∧ stop = [.rxTimeout]) →
    s.pending = .cmdIssue 0 arg :: (List.replicate 9 .txByte ++ (r.map .rxByte ++ (stop ++ rest))) →
    ∃ t : State, Sys2Proof.core.run (10 + r.length + stop.length) s = .next t ∧
      t.phase = .idle ∧ t.pending = rest ∧ t.curOp = .read ∧ t.rxn.val = r.length ∧ received t = r ∧
      t.txStream = s.txStream ++ [0xFF, 0x01, 0x86, 0x00, 0x00, 0x00, 0x00, 0x00, 0x79] ∧
      (∀ v, parseReadResponse r = .ok v → t.status = .ok ∧ t.co2Valid = true ∧ t.co2 = v) ∧
      (∀ e, parseReadResponse r = .error e → t.status = .malformedResponse ∧ t.co2Valid = false)

/-- R176, sixth row: a read failure after `k` bytes: `TRANSPORT_ERROR` and no reading, even if the bytes would have
parsed. -/
def Obligations.ReadFailureOperation : Prop :=
  ∀ (s : State) (arg : Int) (r : List Byte) (rest : List Event),
    s.phase = .idle → r.length ≤ 8 →
    s.pending = .cmdIssue 0 arg :: (List.replicate 9 .txByte ++ (r.map .rxByte ++ .rxFail :: rest)) →
    ∃ t : State, Sys2Proof.core.run (11 + r.length) s = .next t ∧
      t.phase = .idle ∧ t.pending = rest ∧ t.status = .transportError ∧ t.co2Valid = false ∧
      t.rxn.val = r.length ∧ received t = r ∧
      t.txStream = s.txStream ++ [0xFF, 0x01, 0x86, 0x00, 0x00, 0x00, 0x00, 0x00, 0x79]

/-! ### What the host sees -/

/-- The derived outputs of R29 and the codes of R21 and R27, as the host reads them (R30). That a Boolean is read as 1 or 0
is the model's choice (log 19). -/
def Obligations.HostReadsCodesAndOutputs : Prop :=
  ∀ s : State,
    (hostRead .phase s = 0 ↔ s.phase = .idle) ∧ (hostRead .phase s = 1 ↔ s.phase = .tx) ∧
    (hostRead .phase s = 2 ↔ s.phase = .rx) ∧
    (hostRead .status s = 0 ↔ s.status = .none) ∧ (hostRead .status s = 1 ↔ s.status = .ok) ∧
    (hostRead .status s = 2 ↔ s.status = .invalidArgument) ∧
    (hostRead .status s = 3 ↔ s.status = .malformedResponse) ∧
    (hostRead .status s = 4 ↔ s.status = .transportError) ∧
    (hostRead .busy s = 1 ↔ s.phase ≠ .idle) ∧ (hostRead .cmdReady s = 1 ↔ s.phase = .idle) ∧
    (hostRead .done s = 1 ↔ s.status ≠ .none) ∧
    ∀ op arg, enabled s.phase (.cmdIssue op arg) = true ↔ hostRead .cmdReady s = 1

/-- R69, R171: under the invariants a reading the host sees is the two value bytes of the response it also sees,
and it is the typed result. -/
def Obligations.ReadingVisibleAtBothWidths : Prop :=
  ∀ s : State, Inv s → hostRead .co2Valid s = 1 →
    hostRead .co2 s = hostRead (.rxb 2) s * 256 + hostRead (.rxb 3) s ∧
    s.result = some (.reading s.co2) ∧ hostRead .done s = 1 ∧ hostRead .busy s = 0
end

