-- ==== Sys2Proof/Laws/Build.lean ====
section
/-! SUPPORT. The checksum, the splitter and the builders: their values, once. -/

namespace Sys2Proof.Machine

/-- The four steps of R110 as arithmetic on the sum. -/
theorem checksum_eq_neg (b : Body) : checksum b = -(BitVec.ofNat 8 (bodySum b)) := by
  apply BitVec.eq_of_toNat_eq
  simp only [checksum, BitVec.toNat_ofNat, BitVec.toNat_neg]
  omega

/-- The 8-bit sum is the sum of the bytes modulo 256. -/
theorem ofNat_bodySum (b : Body) :
    BitVec.ofNat 8 (bodySum b) = b[0] + b[1] + b[2] + b[3] + b[4] + b[5] + b[6] := by
  apply BitVec.eq_of_toNat_eq
  simp only [bodySum, BitVec.toNat_ofNat, BitVec.toNat_add]
  omega

/-- The checksum of a frame that `MkFrame` makes, as 8-bit arithmetic. -/
theorem checksum_mkFrame (cmd d0 d1 d2 d3 d4 : Byte) :
    checksum #v[Config.addr, cmd, d0, d1, d2, d3, d4] = -(0x01 + cmd + d0 + d1 + d2 + d3 + d4) := by
  rw [checksum_eq_neg, ofNat_bodySum]
  rfl

theorem buildRead_eq : buildRead = #v[0xFF, 0x01, 0x86, 0x00, 0x00, 0x00, 0x00, 0x00, 0x79] := by decide

theorem buildAbc_true : buildAbc true = #v[0xFF, 0x01, 0x79, 0xA0, 0x00, 0x00, 0x00, 0x00, 0xE6] := by decide

theorem buildAbc_false : buildAbc false = #v[0xFF, 0x01, 0x79, 0x00, 0x00, 0x00, 0x00, 0x00, 0x86] := by decide

theorem buildZero_eq : buildZero = #v[0xFF, 0x01, 0x87, 0x00, 0x00, 0x00, 0x00, 0x00, 0x78] := by decide

theorem mkFrame_range5000 : mkFrame Config.cmdRange 0 0 0 0x13 0x88 =
    #v[0xFF, 0x01, 0x99, 0x00, 0x00, 0x00, 0x13, 0x88, 0xCB] := by decide

theorem mkFrame_range2000 : mkFrame Config.cmdRange 0 0 0 0x07 0xD0 =
    #v[0xFF, 0x01, 0x99, 0x00, 0x00, 0x00, 0x07, 0xD0, 0x8F] := by decide

/-- The operation of a code, and the code of an operation. -/
theorem ofCode_code (o : Op) : Op.ofCode o.code = some o := by cases o <;> decide

theorem ofCode_eq_some {c : BitVec 3} {o : Op} (h : Op.ofCode c = some o) : o.code = c := by
  revert o
  decide +revert

/-- A build fails only with `InvalidArgument` (R136). -/
theorem build_error {op : BitVec 3} {arg : Int} {e : ErrorKind} (h : build op arg = .error e) :
    e = .invalidArgument := by
  unfold build at h
  split at h <;> simp_all [buildSpan, buildRange]
  · split at h <;> simp_all
  · split at h
    · simp at h
    · split at h <;> simp_all

end Sys2Proof.Machine
end

