-- ==== Sys2Proof/Laws/State.lean ====
section
/-! SUPPORT. One lemma for each field and each named update of the state, so that no later proof unfolds a record
update. -/

namespace Sys2Proof.Machine

@[simp] theorem raise_phase (e : ErrorKind) (s : State) : (raise e s).phase = .idle := rfl
@[simp] theorem raise_curOp (e : ErrorKind) (s : State) : (raise e s).curOp = s.curOp := rfl
@[simp] theorem raise_txf (e : ErrorKind) (s : State) : (raise e s).txf = s.txf := rfl
@[simp] theorem raise_txi (e : ErrorKind) (s : State) : (raise e s).txi = s.txi := rfl
@[simp] theorem raise_rxb (e : ErrorKind) (s : State) : (raise e s).rxb = s.rxb := rfl
@[simp] theorem raise_rxn (e : ErrorKind) (s : State) : (raise e s).rxn = s.rxn := rfl
@[simp] theorem raise_status (e : ErrorKind) (s : State) : (raise e s).status = e.status := rfl
@[simp] theorem raise_co2 (e : ErrorKind) (s : State) : (raise e s).co2 = s.co2 := rfl
@[simp] theorem raise_co2Valid (e : ErrorKind) (s : State) : (raise e s).co2Valid = s.co2Valid := rfl
@[simp] theorem raise_txStream (e : ErrorKind) (s : State) : (raise e s).txStream = s.txStream := rfl
@[simp] theorem raise_pending (e : ErrorKind) (s : State) : (raise e s).pending = s.pending := rfl
@[simp] theorem raise_draws (e : ErrorKind) (s : State) : (raise e s).draws = s.draws := rfl

@[simp] theorem endOk_phase (s : State) : (endOk s).phase = .idle := rfl
@[simp] theorem endOk_curOp (s : State) : (endOk s).curOp = s.curOp := rfl
@[simp] theorem endOk_txf (s : State) : (endOk s).txf = s.txf := rfl
@[simp] theorem endOk_txi (s : State) : (endOk s).txi = s.txi := rfl
@[simp] theorem endOk_rxb (s : State) : (endOk s).rxb = s.rxb := rfl
@[simp] theorem endOk_rxn (s : State) : (endOk s).rxn = s.rxn := rfl
@[simp] theorem endOk_status (s : State) : (endOk s).status = .ok := rfl
@[simp] theorem endOk_co2 (s : State) : (endOk s).co2 = s.co2 := rfl
@[simp] theorem endOk_co2Valid (s : State) : (endOk s).co2Valid = s.co2Valid := rfl
@[simp] theorem endOk_txStream (s : State) : (endOk s).txStream = s.txStream := rfl
@[simp] theorem endOk_pending (s : State) : (endOk s).pending = s.pending := rfl
@[simp] theorem endOk_draws (s : State) : (endOk s).draws = s.draws := rfl

@[simp] theorem dropReading_phase (s : State) : (dropReading s).phase = s.phase := rfl
@[simp] theorem dropReading_curOp (s : State) : (dropReading s).curOp = s.curOp := rfl
@[simp] theorem dropReading_txf (s : State) : (dropReading s).txf = s.txf := rfl
@[simp] theorem dropReading_txi (s : State) : (dropReading s).txi = s.txi := rfl
@[simp] theorem dropReading_rxb (s : State) : (dropReading s).rxb = s.rxb := rfl
@[simp] theorem dropReading_rxn (s : State) : (dropReading s).rxn = s.rxn := rfl
@[simp] theorem dropReading_status (s : State) : (dropReading s).status = s.status := rfl
@[simp] theorem dropReading_co2 (s : State) : (dropReading s).co2 = s.co2 := rfl
@[simp] theorem dropReading_co2Valid (s : State) : (dropReading s).co2Valid = false := rfl
@[simp] theorem dropReading_txStream (s : State) : (dropReading s).txStream = s.txStream := rfl
@[simp] theorem dropReading_pending (s : State) : (dropReading s).pending = s.pending := rfl
@[simp] theorem dropReading_draws (s : State) : (dropReading s).draws = s.draws := rfl

@[simp] theorem acceptCommand_phase (op : Op) (f : Frame) (s : State) : (acceptCommand op f s).phase = .tx := rfl
@[simp] theorem acceptCommand_curOp (op : Op) (f : Frame) (s : State) : (acceptCommand op f s).curOp = op := rfl
@[simp] theorem acceptCommand_txf (op : Op) (f : Frame) (s : State) : (acceptCommand op f s).txf = f := rfl
@[simp] theorem acceptCommand_txi (op : Op) (f : Frame) (s : State) : (acceptCommand op f s).txi = 0 := rfl
@[simp] theorem acceptCommand_rxb (op : Op) (f : Frame) (s : State) : (acceptCommand op f s).rxb = s.rxb := rfl
@[simp] theorem acceptCommand_rxn (op : Op) (f : Frame) (s : State) : (acceptCommand op f s).rxn = 0 := rfl
@[simp] theorem acceptCommand_status (op : Op) (f : Frame) (s : State) : (acceptCommand op f s).status = .none := rfl
@[simp] theorem acceptCommand_co2 (op : Op) (f : Frame) (s : State) : (acceptCommand op f s).co2 = s.co2 := rfl
@[simp] theorem acceptCommand_co2Valid (op : Op) (f : Frame) (s : State) :
    (acceptCommand op f s).co2Valid = s.co2Valid := rfl
@[simp] theorem acceptCommand_txStream (op : Op) (f : Frame) (s : State) :
    (acceptCommand op f s).txStream = s.txStream := rfl
@[simp] theorem acceptCommand_pending (op : Op) (f : Frame) (s : State) :
    (acceptCommand op f s).pending = s.pending := rfl
@[simp] theorem acceptCommand_draws (op : Op) (f : Frame) (s : State) : (acceptCommand op f s).draws = s.draws := rfl

@[simp] theorem holdAtPort_phase (op : Op) (arg : Int) (s : State) : (holdAtPort op arg s).phase = s.phase := rfl
@[simp] theorem holdAtPort_curOp (op : Op) (arg : Int) (s : State) : (holdAtPort op arg s).curOp = s.curOp := rfl
@[simp] theorem holdAtPort_txf (op : Op) (arg : Int) (s : State) : (holdAtPort op arg s).txf = s.txf := rfl
@[simp] theorem holdAtPort_txi (op : Op) (arg : Int) (s : State) : (holdAtPort op arg s).txi = s.txi := rfl
@[simp] theorem holdAtPort_rxb (op : Op) (arg : Int) (s : State) : (holdAtPort op arg s).rxb = s.rxb := rfl
@[simp] theorem holdAtPort_rxn (op : Op) (arg : Int) (s : State) : (holdAtPort op arg s).rxn = s.rxn := rfl
@[simp] theorem holdAtPort_status (op : Op) (arg : Int) (s : State) : (holdAtPort op arg s).status = s.status := rfl
@[simp] theorem holdAtPort_co2 (op : Op) (arg : Int) (s : State) : (holdAtPort op arg s).co2 = s.co2 := rfl
@[simp] theorem holdAtPort_co2Valid (op : Op) (arg : Int) (s : State) :
    (holdAtPort op arg s).co2Valid = s.co2Valid := rfl
@[simp] theorem holdAtPort_txStream (op : Op) (arg : Int) (s : State) :
    (holdAtPort op arg s).txStream = s.txStream := rfl
@[simp] theorem holdAtPort_pending (op : Op) (arg : Int) (s : State) :
    (holdAtPort op arg s).pending = s.pending ++ [.cmdIssue op.code arg] := rfl
@[simp] theorem holdAtPort_draws (op : Op) (arg : Int) (s : State) : (holdAtPort op arg s).draws = s.draws := rfl

@[simp] theorem txEmit_phase (b : Byte) (s : State) : (txEmit b s).phase = s.phase := rfl
@[simp] theorem txEmit_curOp (b : Byte) (s : State) : (txEmit b s).curOp = s.curOp := rfl
@[simp] theorem txEmit_txf (b : Byte) (s : State) : (txEmit b s).txf = s.txf := rfl
@[simp] theorem txEmit_txi (b : Byte) (s : State) : (txEmit b s).txi = s.txi := rfl
@[simp] theorem txEmit_rxb (b : Byte) (s : State) : (txEmit b s).rxb = s.rxb := rfl
@[simp] theorem txEmit_rxn (b : Byte) (s : State) : (txEmit b s).rxn = s.rxn := rfl
@[simp] theorem txEmit_status (b : Byte) (s : State) : (txEmit b s).status = s.status := rfl
@[simp] theorem txEmit_co2 (b : Byte) (s : State) : (txEmit b s).co2 = s.co2 := rfl
@[simp] theorem txEmit_co2Valid (b : Byte) (s : State) : (txEmit b s).co2Valid = s.co2Valid := rfl
@[simp] theorem txEmit_txStream (b : Byte) (s : State) : (txEmit b s).txStream = s.txStream ++ [b] := rfl
@[simp] theorem txEmit_pending (b : Byte) (s : State) : (txEmit b s).pending = s.pending := rfl
@[simp] theorem txEmit_draws (b : Byte) (s : State) : (txEmit b s).draws = s.draws := rfl

@[simp] theorem sendByte_phase (s : State) (h : s.txi.val < 9) : (sendByte s h).phase = s.phase := rfl
@[simp] theorem sendByte_curOp (s : State) (h : s.txi.val < 9) : (sendByte s h).curOp = s.curOp := rfl
@[simp] theorem sendByte_txf (s : State) (h : s.txi.val < 9) : (sendByte s h).txf = s.txf := rfl
@[simp] theorem sendByte_txi (s : State) (h : s.txi.val < 9) : (sendByte s h).txi = ⟨s.txi.val + 1, by omega⟩ := rfl
@[simp] theorem sendByte_rxb (s : State) (h : s.txi.val < 9) : (sendByte s h).rxb = s.rxb := rfl
@[simp] theorem sendByte_rxn (s : State) (h : s.txi.val < 9) : (sendByte s h).rxn = s.rxn := rfl
@[simp] theorem sendByte_status (s : State) (h : s.txi.val < 9) : (sendByte s h).status = s.status := rfl
@[simp] theorem sendByte_co2 (s : State) (h : s.txi.val < 9) : (sendByte s h).co2 = s.co2 := rfl
@[simp] theorem sendByte_co2Valid (s : State) (h : s.txi.val < 9) : (sendByte s h).co2Valid = s.co2Valid := rfl
@[simp] theorem sendByte_txStream (s : State) (h : s.txi.val < 9) :
    (sendByte s h).txStream = s.txStream ++ [s.txf[s.txi.val]] := rfl
@[simp] theorem sendByte_pending (s : State) (h : s.txi.val < 9) : (sendByte s h).pending = s.pending := rfl
@[simp] theorem sendByte_draws (s : State) (h : s.txi.val < 9) : (sendByte s h).draws = s.draws := rfl

@[simp] theorem storeByte_phase (b : Byte) (s : State) (h : s.rxn.val < 9) : (storeByte b s h).phase = s.phase := rfl
@[simp] theorem storeByte_curOp (b : Byte) (s : State) (h : s.rxn.val < 9) : (storeByte b s h).curOp = s.curOp := rfl
@[simp] theorem storeByte_txf (b : Byte) (s : State) (h : s.rxn.val < 9) : (storeByte b s h).txf = s.txf := rfl
@[simp] theorem storeByte_txi (b : Byte) (s : State) (h : s.rxn.val < 9) : (storeByte b s h).txi = s.txi := rfl
@[simp] theorem storeByte_rxb (b : Byte) (s : State) (h : s.rxn.val < 9) :
    (storeByte b s h).rxb = s.rxb.set s.rxn.val b := rfl
@[simp] theorem storeByte_rxn (b : Byte) (s : State) (h : s.rxn.val < 9) :
    (storeByte b s h).rxn = ⟨s.rxn.val + 1, by omega⟩ := rfl
@[simp] theorem storeByte_status (b : Byte) (s : State) (h : s.rxn.val < 9) :
    (storeByte b s h).status = s.status := rfl
@[simp] theorem storeByte_co2 (b : Byte) (s : State) (h : s.rxn.val < 9) : (storeByte b s h).co2 = s.co2 := rfl
@[simp] theorem storeByte_co2Valid (b : Byte) (s : State) (h : s.rxn.val < 9) :
    (storeByte b s h).co2Valid = s.co2Valid := rfl
@[simp] theorem storeByte_txStream (b : Byte) (s : State) (h : s.rxn.val < 9) :
    (storeByte b s h).txStream = s.txStream := rfl
@[simp] theorem storeByte_pending (b : Byte) (s : State) (h : s.rxn.val < 9) :
    (storeByte b s h).pending = s.pending := rfl
@[simp] theorem storeByte_draws (b : Byte) (s : State) (h : s.rxn.val < 9) : (storeByte b s h).draws = s.draws := rfl

@[simp] theorem enterRx_phase (s : State) : (enterRx s).phase = .rx := rfl
@[simp] theorem enterRx_curOp (s : State) : (enterRx s).curOp = s.curOp := rfl
@[simp] theorem enterRx_txf (s : State) : (enterRx s).txf = s.txf := rfl
@[simp] theorem enterRx_txi (s : State) : (enterRx s).txi = s.txi := rfl
@[simp] theorem enterRx_rxb (s : State) : (enterRx s).rxb = s.rxb := rfl
@[simp] theorem enterRx_rxn (s : State) : (enterRx s).rxn = s.rxn := rfl
@[simp] theorem enterRx_status (s : State) : (enterRx s).status = s.status := rfl
@[simp] theorem enterRx_co2 (s : State) : (enterRx s).co2 = s.co2 := rfl
@[simp] theorem enterRx_co2Valid (s : State) : (enterRx s).co2Valid = s.co2Valid := rfl
@[simp] theorem enterRx_txStream (s : State) : (enterRx s).txStream = s.txStream := rfl
@[simp] theorem enterRx_pending (s : State) : (enterRx s).pending = s.pending := rfl
@[simp] theorem enterRx_draws (s : State) : (enterRx s).draws = s.draws := rfl

@[simp] theorem acceptReading_phase (v : Word16) (s : State) : (acceptReading v s).phase = .idle := rfl
@[simp] theorem acceptReading_curOp (v : Word16) (s : State) : (acceptReading v s).curOp = s.curOp := rfl
@[simp] theorem acceptReading_txf (v : Word16) (s : State) : (acceptReading v s).txf = s.txf := rfl
@[simp] theorem acceptReading_txi (v : Word16) (s : State) : (acceptReading v s).txi = s.txi := rfl
@[simp] theorem acceptReading_rxb (v : Word16) (s : State) : (acceptReading v s).rxb = s.rxb := rfl
@[simp] theorem acceptReading_rxn (v : Word16) (s : State) : (acceptReading v s).rxn = s.rxn := rfl
@[simp] theorem acceptReading_status (v : Word16) (s : State) : (acceptReading v s).status = .ok := rfl
@[simp] theorem acceptReading_co2 (v : Word16) (s : State) : (acceptReading v s).co2 = v := rfl
@[simp] theorem acceptReading_co2Valid (v : Word16) (s : State) : (acceptReading v s).co2Valid = true := rfl
@[simp] theorem acceptReading_txStream (v : Word16) (s : State) : (acceptReading v s).txStream = s.txStream := rfl
@[simp] theorem acceptReading_pending (v : Word16) (s : State) : (acceptReading v s).pending = s.pending := rfl
@[simp] theorem acceptReading_draws (v : Word16) (s : State) : (acceptReading v s).draws = s.draws := rfl

@[simp] theorem resetRegisters_phase (s : State) : (resetRegisters s).phase = .idle := rfl
@[simp] theorem resetRegisters_curOp (s : State) : (resetRegisters s).curOp = Config.unspecifiedOp s.draws := rfl
@[simp] theorem resetRegisters_txf (s : State) : (resetRegisters s).txf = unspecifiedFrame s.draws := rfl
@[simp] theorem resetRegisters_txi (s : State) : (resetRegisters s).txi = 0 := rfl
@[simp] theorem resetRegisters_rxb (s : State) : (resetRegisters s).rxb = unspecifiedFrame (s.draws + 9) := rfl
@[simp] theorem resetRegisters_rxn (s : State) : (resetRegisters s).rxn = 0 := rfl
@[simp] theorem resetRegisters_status (s : State) : (resetRegisters s).status = .none := rfl
@[simp] theorem resetRegisters_co2 (s : State) : (resetRegisters s).co2 = Config.unspecifiedReading s.draws := rfl
@[simp] theorem resetRegisters_co2Valid (s : State) : (resetRegisters s).co2Valid = false := rfl
@[simp] theorem resetRegisters_txStream (s : State) : (resetRegisters s).txStream = s.txStream := rfl
@[simp] theorem resetRegisters_pending (s : State) : (resetRegisters s).pending = s.pending := rfl
@[simp] theorem resetRegisters_draws (s : State) : (resetRegisters s).draws = s.draws + 18 := rfl

@[simp] theorem reset_phase : State.reset.phase = .idle := rfl
@[simp] theorem reset_txi : State.reset.txi = 0 := rfl
@[simp] theorem reset_rxn : State.reset.rxn = 0 := rfl
@[simp] theorem reset_status : State.reset.status = .none := rfl
@[simp] theorem reset_co2Valid : State.reset.co2Valid = false := rfl
@[simp] theorem reset_txStream : State.reset.txStream = [] := rfl
@[simp] theorem reset_pending : State.reset.pending = [] := rfl

/-- The bytes received, one more after a byte is stored (R166). -/
theorem received_storeByte (b : Byte) (s : State) (h : s.rxn.val < 9) :
    received (storeByte b s h) = received s ++ [b] := by
  simp only [received, storeByte_rxb, storeByte_rxn, Vector.toList_set]
  rw [List.take_add_one, List.getElem?_set_self (by simpa using h), List.take_set_of_le (Nat.le_refl _)]
  rfl

theorem received_length (s : State) : (received s).length = s.rxn.val := by
  have := s.rxn.isLt
  simp [received]
  omega

end Sys2Proof.Machine
end

