-- ==== Sys2Proof/Laws/Command.lean ====
section
/-! SUPPORT. Everything a presented command and `CmdIssue` do. -/

namespace Sys2Proof.Machine

/-- Everything a command port word can present. -/
theorem decodePort_ok {op : BitVec 3} {arg : Int} {i : Instr} (h : decodePort op arg = .ok i) :
    ∃ o, Op.ofCode op = some o ∧ ∀ s : State, ∃ a, exec i s = .next (present o a (build op arg) s) := by
  unfold decodePort at h
  split at h
  · rename_i ho
    obtain rfl : Instr.read = i := by simpa using h
    exact ⟨_, ho, fun s => ⟨0, by simp [exec, execRead, build, ho]⟩⟩
  · rename_i ho
    split at h
    · rename_i ha
      obtain rfl : Instr.abcOn = i := by simpa using h
      exact ⟨_, ho, fun s => ⟨1, by simp [exec, execAbcOn, build, ho, abcOperand, ha]⟩⟩
    · rename_i ha
      obtain rfl : Instr.abcOff = i := by simpa using h
      exact ⟨_, ho, fun s => ⟨0, by simp_all [exec, execAbcOff, build, abcOperand]⟩⟩
  · rename_i ho
    obtain rfl : Instr.zero = i := by simpa using h
    exact ⟨_, ho, fun s => ⟨0, by simp [exec, execZero, build, ho]⟩⟩
  · rename_i ho
    obtain rfl : Instr.span arg = i := by simpa using h
    exact ⟨_, ho, fun s => ⟨arg, by simp [exec, execSpan, build, ho]⟩⟩
  · rename_i ho
    split at h
    · rename_i ha
      obtain rfl : Instr.range5000 = i := by simpa using h
      exact ⟨_, ho, fun s => ⟨5000, by simp [exec, execRange5000, build, ho, ha]⟩⟩
    · split at h
      · rename_i ha
        obtain rfl : Instr.range2000 = i := by simpa using h
        exact ⟨_, ho, fun s => ⟨2000, by simp [exec, execRange2000, build, ho, ha]⟩⟩
      · simp at h
  · simp at h

/-- What no row of the table is for, `Build` rejects (R86, R135). -/
theorem decodePort_error {op : BitVec 3} {arg : Int} {e : PortReject} (h : decodePort op arg = .error e) :
    build op arg = .error .invalidArgument := by
  unfold decodePort at h
  split at h <;> simp_all [build]
  · split at h
    · simp at h
    · split at h
      · simp at h
      · simp_all [buildRange]

/-- `CmdIssue` in `IDLE`, by what `Build` gives. -/
theorem cmdIssue_cases {s : State} (op : BitVec 3) (arg : Int) (hp : s.phase = .idle) :
    (build op arg = .error .invalidArgument ∧
      cmdIssue op arg s = .next (raise .invalidArgument (dropReading s))) ∨
    ∃ o f, o.code = op ∧ build op arg = .ok f ∧ cmdIssue op arg s = .next (acceptCommand o f (dropReading s)) := by
  unfold cmdIssue
  cases hd : decodePort op arg with
  | error e => exact .inl ⟨decodePort_error hd, rfl⟩
  | ok i =>
    obtain ⟨o, ho, hx⟩ := decodePort_ok hd
    obtain ⟨a, ha⟩ := hx s
    cases hb : build op arg with
    | error e =>
      obtain rfl := build_error hb
      exact .inl ⟨rfl, by simp [ha, hb, present, hp, issue]⟩
    | ok f => exact .inr ⟨o, f, ofCode_eq_some ho, rfl, by simp [ha, hb, present, hp, issue]⟩

end Sys2Proof.Machine
end

