-- ==== Sys2Proof/Laws/Decode.lean ====
section
/-! SUPPORT. Everything the command-frame decoder accepts. -/

namespace Sys2Proof

theorem expectRow_ok {i j : Instr} {cmd cs want : Byte} {payloadOk : Bool}
    (h : expectRow i cmd payloadOk cs want = .ok j) : payloadOk = true ∧ cs = want ∧ j = i := by
  unfold expectRow at h
  split at h
  · split at h
    · rename_i hp hc
      exact ⟨hp, hc, by simpa using h.symm⟩
    · simp at h
  · simp at h

/-- The payloads the decoder accepts: the rows 1 to 7 of R85, each with its checksum. -/
theorem decodePayload_ok {cmd d0 d1 d2 d3 d4 cs : Byte} {i : Instr}
    (h : decodePayload cmd d0 d1 d2 d3 d4 cs = .ok i) :
    (cmd = 0x86 ∧ [d0, d1, d2, d3, d4] = [0, 0, 0, 0, 0] ∧ cs = 0x79 ∧ i = .read) ∨
    (cmd = 0x79 ∧ d0 = 0xA0 ∧ [d1, d2, d3, d4] = [0, 0, 0, 0] ∧ cs = 0xE6 ∧ i = .abcOn) ∨
    (cmd = 0x79 ∧ [d0, d1, d2, d3, d4] = [0, 0, 0, 0, 0] ∧ cs = 0x86 ∧ i = .abcOff) ∨
    (cmd = 0x87 ∧ [d0, d1, d2, d3, d4] = [0, 0, 0, 0, 0] ∧ cs = 0x78 ∧ i = .zero) ∨
    (cmd = 0x88 ∧ [d2, d3, d4] = [0, 0, 0] ∧ cs = spanChecksum d0 d1 ∧ i = .span (d0.toNat * 256 + d1.toNat)) ∨
    (cmd = 0x99 ∧ [d0, d1, d2, d3, d4] = [0, 0, 0, 0x13, 0x88] ∧ cs = 0xCB ∧ i = .range5000) ∨
    (cmd = 0x99 ∧ [d0, d1, d2, d3, d4] = [0, 0, 0, 0x07, 0xD0] ∧ cs = 0x8F ∧ i = .range2000) := by
  unfold decodePayload at h
  split at h
  · rename_i hc
    obtain ⟨hp, hs, hi⟩ := expectRow_ok h
    exact .inl ⟨hc, of_decide_eq_true hp, hs, hi⟩
  split at h
  · rename_i hc
    split at h
    · rename_i h0
      obtain ⟨hp, hs, hi⟩ := expectRow_ok h
      exact .inr (.inl ⟨hc, h0, of_decide_eq_true hp, hs, hi⟩)
    · obtain ⟨hp, hs, hi⟩ := expectRow_ok h
      exact .inr (.inr (.inl ⟨hc, of_decide_eq_true hp, hs, hi⟩))
  split at h
  · rename_i hc
    obtain ⟨hp, hs, hi⟩ := expectRow_ok h
    exact .inr (.inr (.inr (.inl ⟨hc, of_decide_eq_true hp, hs, hi⟩)))
  split at h
  · rename_i hc
    obtain ⟨hp, hs, hi⟩ := expectRow_ok h
    exact .inr (.inr (.inr (.inr (.inl ⟨hc, of_decide_eq_true hp, hs, hi⟩))))
  split at h
  · rename_i hc
    split at h
    · obtain ⟨hp, hs, hi⟩ := expectRow_ok h
      exact .inr (.inr (.inr (.inr (.inr (.inl ⟨hc, of_decide_eq_true hp, hs, hi⟩)))))
    · obtain ⟨hp, hs, hi⟩ := expectRow_ok h
      exact .inr (.inr (.inr (.inr (.inr (.inr ⟨hc, of_decide_eq_true hp, hs, hi⟩)))))
  · simp at h

/-- A command frame is `FF 01` and seven more bytes. -/
theorem decodeCommand_ok {bytes : List Byte} {i : Instr} (h : decodeCommand bytes = .ok i) :
    ∃ cmd d0 d1 d2 d3 d4 cs, bytes = [0xFF, 0x01, cmd, d0, d1, d2, d3, d4, cs] ∧
      decodePayload cmd d0 d1 d2 d3 d4 cs = .ok i := by
  unfold decodeCommand at h
  split at h
  · rename_i b0 b1 cmd d0 d1 d2 d3 d4 cs
    split at h
    · simp at h
    · split at h
      · simp at h
      · rename_i h0 h1
        simp only [ne_eq, not_not] at h0 h1
        exact ⟨cmd, d0, d1, d2, d3, d4, cs, by rw [h0, h1], h⟩
  · split at h <;> simp at h

end Sys2Proof
end

