-- ==== Sys2Proof/Laws/Fetch.lean ====
section
/-! SUPPORT. Everything `takeEnabled` can answer, and everything a step can do. -/

namespace Sys2Proof.Machine

theorem takeEnabled_none_iff (p : Phase) (l : List Event) :
    takeEnabled p l = none ↔ ∀ x ∈ l, enabled p x = false := by
  induction l with
  | nil => simp [takeEnabled]
  | cons e l ih =>
    rw [takeEnabled]
    by_cases he : enabled p e = true
    · simp [he]
    · cases ht : takeEnabled p l with
      | none => simpa [he] using ih.mp ht
      | some r =>
        have : ¬ ∀ x ∈ l, enabled p x = false := fun h => by simp [ih.mpr h] at ht
        simp only [he, Bool.false_eq_true, if_false, reduceCtorEq, List.mem_cons, forall_eq_or_imp, false_iff]
        tauto

/-- The answer is the first enabled event, and the rest is what stood around it. -/
theorem takeEnabled_some {p : Phase} {l : List Event} {e : Event} {rest : List Event}
    (h : takeEnabled p l = some (e, rest)) :
    enabled p e = true ∧ ∃ before after, l = before ++ e :: after ∧ rest = before ++ after ∧
      ∀ x ∈ before, enabled p x = false := by
  induction l generalizing e rest with
  | nil => simp [takeEnabled] at h
  | cons x l ih =>
    rw [takeEnabled] at h
    by_cases hx : enabled p x = true
    · simp only [hx, if_true, Option.some.injEq, Prod.mk.injEq] at h
      obtain ⟨rfl, rfl⟩ := h
      exact ⟨hx, [], l, rfl, rfl, by simp⟩
    · simp only [hx, Bool.false_eq_true, if_false] at h
      cases ht : takeEnabled p l with
      | none => simp [ht] at h
      | some r =>
        obtain ⟨e', rest'⟩ := r
        simp only [ht, Option.some.injEq, Prod.mk.injEq] at h
        obtain ⟨rfl, rfl⟩ := h
        obtain ⟨he, before, after, rfl, rfl, hb⟩ := ih ht
        refine ⟨he, x :: before, after, rfl, rfl, ?_⟩
        simpa [hx] using hb

/-- An enabled event behind held ones is the one taken. -/
theorem takeEnabled_append {p : Phase} {before : List Event} {e : Event} {after : List Event}
    (hb : ∀ x ∈ before, enabled p x = false) (he : enabled p e = true) :
    takeEnabled p (before ++ e :: after) = some (e, before ++ after) := by
  induction before with
  | nil => simp [takeEnabled, he]
  | cons x l ih =>
    have hx := hb x (by simp)
    have := ih fun y hy => hb y (by simp [hy])
    simp [takeEnabled, hx, this]

/-- A step performs an enabled pending event, or there is none and nothing changes. -/
theorem step_cases {s t : State} (h : step s = .next t) :
    (takeEnabled s.phase s.pending = none ∧ t = s) ∨
    ∃ e rest, takeEnabled s.phase s.pending = some (e, rest) ∧ enabled s.phase e = true ∧
      perform e { s with pending := rest } = .next t := by
  unfold step at h
  split at h
  · rename_i hn
    exact .inl ⟨hn, by simpa using h.symm⟩
  · rename_i e rest hs
    exact .inr ⟨e, rest, hs, (takeEnabled_some hs).1, h⟩

/-- The step of a state whose first pending event is enabled. -/
theorem step_head {s : State} {e : Event} {rest : List Event} (hp : s.pending = e :: rest)
    (he : enabled s.phase e = true) : step s = perform e { s with pending := rest } := by
  simp [step, hp, takeEnabled, he]

end Sys2Proof.Machine
end

