-- ==== Sys2Proof/Laws/Response.lean ====
section
/-! SUPPORT. The response decoder and the parser accept the same bytes, and everything `Finish` does. -/

namespace Sys2Proof.Machine

/-- Everything the response decoder accepts. -/
theorem decodeResponse_ok {r : List Byte} {i : Instr} (h : decodeResponse r = .ok i) :
    ∃ hi lo ignored, i = .respRead hi lo ignored ∧ r = 0xFF :: 0x86 :: hi :: lo :: ignored ∧
      ignored.length ≤ 5 ∧ parseReadResponse r = .ok (join16 hi lo) := by
  unfold decodeResponse at h
  split at h
  · rename_i b0 b1 hi lo ignored
    split at h
    · simp at h
    · split at h
      · simp at h
      · split at h
        · simp at h
        · simp only [Except.ok.injEq] at h
          simp_all only [ne_eq, not_not, not_lt]
          exact ⟨hi, lo, ignored, h.symm, rfl, by omega, by simp [parseReadResponse]⟩
  · simp at h

/-- Of at most nine bytes, what the decoder rejects the parser rejects. -/
theorem decodeResponse_error {r : List Byte} {e : DecodeReject} (hr : r.length ≤ 9)
    (h : decodeResponse r = .error e) : parseReadResponse r = .error .malformedResponse := by
  unfold decodeResponse at h
  split at h
  · rename_i b0 b1 hi lo ignored
    simp only [List.length_cons] at hr
    unfold parseReadResponse
    split at h
    · simp_all
    · split at h
      · simp_all
      · split at h
        · omega
        · simp at h
  · rename_i hne
    unfold parseReadResponse
    split
    · exact absurd rfl (hne _ _ _ _ _)
    · rfl

/-- `Finish` in phase `RX`, by what the parser says of the received bytes. -/
theorem finish_eq {s : State} (hp : s.phase = .rx) :
    finish s = .next (match parseReadResponse (received s) with
      | .ok v => acceptReading v s
      | .error _ => raise .malformedResponse s) := by
  unfold finish
  cases hd : decodeResponse (received s) with
  | ok i =>
    obtain ⟨hi, lo, ignored, rfl, -, -, hv⟩ := decodeResponse_ok hd
    simp [hv, exec, execRespRead, hp]
  | error e =>
    have hl : (received s).length ≤ 9 := by
      have := s.rxn.isLt
      rw [received_length]
      omega
    simp [decodeResponse_error hl hd]

/-- The parser's only error. -/
theorem parse_error {r : List Byte} {e : ErrorKind} (h : parseReadResponse r = .error e) :
    e = .malformedResponse := by
  unfold parseReadResponse at h
  split at h
  · split at h <;> simp_all
  · simpa using h.symm

end Sys2Proof.Machine
end

