-- ==== Sys2Proof/Laws/Events.lean ====
section
/-! SUPPORT. Everything an event can do: one inversion lemma each, and one for all of them. -/

namespace Sys2Proof.Machine

/-- Everything `TxByte` does. -/
theorem txByte_cases {s t : State} (h : txByte s = .next t) : ∃ hn : s.txi.val < 9,
    (s.txi.val < 8 ∧ t = sendByte s hn) ∨
    (s.txi.val = 8 ∧ s.curOp = .read ∧ t = enterRx (sendByte s hn)) ∨
    (s.txi.val = 8 ∧ s.curOp ≠ .read ∧ t = endOk (sendByte s hn)) := by
  unfold txByte at h
  split at h
  · rename_i hn
    refine ⟨hn, ?_⟩
    simp only [Host.Outcome.next.injEq] at h
    subst h
    split
    · rename_i h8
      split
      · rename_i hr
        exact .inr (.inl ⟨by omega, hr, rfl⟩)
      · rename_i hr
        exact .inr (.inr ⟨by omega, hr, rfl⟩)
    · exact .inl ⟨by omega, rfl⟩
  · simp at h

/-- Everything `Finish` does in phase `RX`. -/
theorem finish_cases {s t : State} (hp : s.phase = .rx) (h : finish s = .next t) :
    (∃ v, parseReadResponse (received s) = .ok v ∧ t = acceptReading v s) ∨
    (parseReadResponse (received s) = .error .malformedResponse ∧ t = raise .malformedResponse s) := by
  rw [finish_eq hp, Host.Outcome.next.injEq] at h
  cases hr : parseReadResponse (received s) with
  | ok v => exact .inl ⟨v, rfl, by simpa [hr] using h.symm⟩
  | error e =>
    obtain rfl := parse_error hr
    exact .inr ⟨rfl, by simpa [hr] using h.symm⟩

/-- Everything `RxByte(b)` does in phase `RX`. -/
theorem rxByte_cases {s t : State} {b : Byte} (hp : s.phase = .rx) (h : rxByte b s = .next t) :
    ∃ hn : s.rxn.val < 9,
    (s.rxn.val < 8 ∧ t = storeByte b s hn) ∨
    (s.rxn.val = 8 ∧ ((∃ v, parseReadResponse (received (storeByte b s hn)) = .ok v ∧
        t = acceptReading v (storeByte b s hn)) ∨
      (parseReadResponse (received (storeByte b s hn)) = .error .malformedResponse ∧
        t = raise .malformedResponse (storeByte b s hn)))) := by
  unfold rxByte at h
  split at h
  · rename_i hn
    refine ⟨hn, ?_⟩
    split at h
    · exact .inr ⟨by omega, finish_cases (by simpa using hp) h⟩
    · exact .inl ⟨by omega, by simpa using h.symm⟩
  · simp at h

/-- Everything an enabled event does. -/
theorem perform_cases {s t : State} {e : Event} (he : enabled s.phase e = true) (h : perform e s = .next t) :
    (s.phase = .idle ∧ ∃ op arg, e = .cmdIssue op arg ∧
      ((build op arg = .error .invalidArgument ∧ t = raise .invalidArgument (dropReading s)) ∨
        ∃ o f, o.code = op ∧ build op arg = .ok f ∧ t = acceptCommand o f (dropReading s))) ∨
    (s.phase = .tx ∧ e = .txByte ∧ ∃ hn : s.txi.val < 9,
      (s.txi.val < 8 ∧ t = sendByte s hn) ∨
      (s.txi.val = 8 ∧ s.curOp = .read ∧ t = enterRx (sendByte s hn)) ∨
      (s.txi.val = 8 ∧ s.curOp ≠ .read ∧ t = endOk (sendByte s hn))) ∨
    (s.phase = .tx ∧ e = .txFail ∧ t = raise .transportError s) ∨
    (s.phase = .rx ∧ (∃ b, e = .rxByte b ∧ ∃ hn : s.rxn.val < 9,
      (s.rxn.val < 8 ∧ t = storeByte b s hn) ∨
      (s.rxn.val = 8 ∧ ((∃ v, parseReadResponse (received (storeByte b s hn)) = .ok v ∧
          t = acceptReading v (storeByte b s hn)) ∨
        (parseReadResponse (received (storeByte b s hn)) = .error .malformedResponse ∧
          t = raise .malformedResponse (storeByte b s hn)))))) ∨
    (s.phase = .rx ∧ e = .rxTimeout ∧
      ((∃ v, parseReadResponse (received s) = .ok v ∧ t = acceptReading v s) ∨
        (parseReadResponse (received s) = .error .malformedResponse ∧ t = raise .malformedResponse s))) ∨
    (s.phase = .rx ∧ e = .rxFail ∧ t = raise .transportError s) ∨
    (e = .reset ∧ t = resetRegisters s) := by
  cases e with
  | cmdIssue op arg =>
    have hp : s.phase = .idle := by simpa [enabled] using he
    refine .inl ⟨hp, op, arg, rfl, ?_⟩
    rcases cmdIssue_cases op arg hp with ⟨hb, hc⟩ | ⟨o, f, ho, hb, hc⟩
    · exact .inl ⟨hb, by simpa [perform, hc] using h.symm⟩
    · exact .inr ⟨o, f, ho, hb, by simpa [perform, hc] using h.symm⟩
  | txByte => exact .inr (.inl ⟨by simpa [enabled] using he, rfl, txByte_cases h⟩)
  | txFail =>
    exact .inr (.inr (.inl ⟨by simpa [enabled] using he, rfl, by simpa [perform, txFail] using h.symm⟩))
  | rxByte b =>
    have hp : s.phase = .rx := by simpa [enabled] using he
    exact .inr (.inr (.inr (.inl ⟨hp, b, rfl, rxByte_cases hp h⟩)))
  | rxTimeout =>
    have hp : s.phase = .rx := by simpa [enabled] using he
    exact .inr (.inr (.inr (.inr (.inl ⟨hp, rfl, finish_cases hp h⟩))))
  | rxFail =>
    exact .inr (.inr (.inr (.inr (.inr (.inl
      ⟨by simpa [enabled] using he, rfl, by simpa [perform, rxFail] using h.symm⟩)))))
  | reset =>
    exact .inr (.inr (.inr (.inr (.inr (.inr ⟨rfl, by simpa [perform, resetEvent] using h.symm⟩)))))

end Sys2Proof.Machine
end

