-- ==== Sys2Proof/Laws/PerInstr.lean ====
section
/-! SUPPORT. Statements for all instructions, one lemma for each constructor. -/

namespace Sys2Proof.Laws

/-- Every encoding of a well-formed instruction begins with the start marker and has four to nine bytes, exactly
nine where it is a command (R51, R60, R82). -/
def Shape.Statement (i : Instr) : Prop :=
  i.wellFormed = true → (encode i).head? = some 0xFF ∧ 4 ≤ (encode i).length ∧ (encode i).length ≤ 9 ∧
    (portOf i ≠ none → (encode i).length = 9)

theorem Shape.read : Shape.Statement .read := by simp [Shape.Statement, encode]
theorem Shape.abcOn : Shape.Statement .abcOn := by simp [Shape.Statement, encode]
theorem Shape.abcOff : Shape.Statement .abcOff := by simp [Shape.Statement, encode]
theorem Shape.zero : Shape.Statement .zero := by simp [Shape.Statement, encode]
theorem Shape.span (span : Int) : Shape.Statement (.span span) := by simp [Shape.Statement, encode]
theorem Shape.range5000 : Shape.Statement .range5000 := by simp [Shape.Statement, encode]
theorem Shape.range2000 : Shape.Statement .range2000 := by simp [Shape.Statement, encode]
theorem Shape.respRead (hi lo : Byte) (ignored : List Byte) : Shape.Statement (.respRead hi lo ignored) := by
  intro h
  have : ignored.length ≤ 5 := by simpa [Instr.wellFormed, Instr.illFormed] using h
  simp [encode, portOf]
  omega

/-- The command word that presents an instruction decodes to it (R83). -/
def PortWord.Statement (i : Instr) : Prop :=
  ∀ op arg, portOf i = some (op, arg) → decodePort op arg = .ok i

theorem PortWord.read : PortWord.Statement .read := by simp [PortWord.Statement, portOf, decodePort, Op.ofCode]
theorem PortWord.abcOn : PortWord.Statement .abcOn := by simp [PortWord.Statement, portOf, decodePort, Op.ofCode]
theorem PortWord.abcOff : PortWord.Statement .abcOff := by simp [PortWord.Statement, portOf, decodePort, Op.ofCode]
theorem PortWord.zero : PortWord.Statement .zero := by simp [PortWord.Statement, portOf, decodePort, Op.ofCode]
theorem PortWord.span (span : Int) : PortWord.Statement (.span span) := by
  simp [PortWord.Statement, portOf, decodePort, Op.ofCode]
theorem PortWord.range5000 : PortWord.Statement .range5000 := by
  simp [PortWord.Statement, portOf, decodePort, Op.ofCode]
theorem PortWord.range2000 : PortWord.Statement .range2000 := by
  simp [PortWord.Statement, portOf, decodePort, Op.ofCode]
theorem PortWord.respRead (hi lo : Byte) (ignored : List Byte) : PortWord.Statement (.respRead hi lo ignored) := by
  simp [PortWord.Statement, portOf]

end Sys2Proof.Laws
end

