-- ==== Sys2Proof/Laws/Run.lean ====
section
/-! SUPPORT. Runs: first of any machine behind the host's interface, then of this one. -/

namespace Sys2Proof.Laws

theorem coreRun_succ (M : Host.Core) {s t : M.State} (h : M.step s = .next t) (k : Nat) :
    M.run (k + 1) s = M.run k t := by
  simp [Host.Core.run, h]

theorem coreRun_add (M : Host.Core) {s t : M.State} {j : Nat} (h : M.run j s = .next t) (k : Nat) :
    M.run (j + k) s = M.run k t := by
  induction j generalizing s with
  | zero =>
    obtain rfl : s = t := by simpa [Host.Core.run] using h
    rw [Nat.zero_add]
  | succ j ih =>
    rw [Nat.add_right_comm]
    simp only [Host.Core.run] at h ⊢
    cases hs : M.step s with
    | next u => simpa [hs] using ih (by simpa [hs] using h)
    | fault r => simp [hs] at h
    | refused r => simp [hs] at h

end Sys2Proof.Laws

namespace Sys2Proof.Machine

theorem run_zero (s : State) : Sys2Proof.core.run 0 s = .next s := rfl

/-- A run of one step more. -/
theorem run_succ {s t : State} (h : step s = .next t) (k : Nat) :
    Sys2Proof.core.run (k + 1) s = Sys2Proof.core.run k t :=
  Laws.coreRun_succ Sys2Proof.core h k

/-- A run of `j + k` steps is a run of `j` and then one of `k`. -/
theorem run_add {s t : State} {j : Nat} (h : Sys2Proof.core.run j s = .next t) (k : Nat) :
    Sys2Proof.core.run (j + k) s = Sys2Proof.core.run k t :=
  Laws.coreRun_add Sys2Proof.core h k

end Sys2Proof.Machine
end

