-- ==== Sys2Proof/Machine/Mnemonic.lean ====
section
/-! DEFINITION. The textual syntax of R91: one operation per line, the mnemonic in capitals, then the operand; an
integer operand is decimal with an optional leading `-`; the Boolean operand is `on` or `off`. A line names a
command word; nothing expands into more than one. -/

namespace Sys2Proof.Machine

/-- The value of a decimal digit. -/
def digitValue (c : Char) : Option Nat :=
  if 48 ≤ c.toNat ∧ c.toNat ≤ 57 then some (c.toNat - 48) else none

/-- A number continued by decimal digits. -/
def parseDigits (acc : Nat) : List Char → Option Nat
  | [] => some acc
  | c :: cs =>
    match digitValue c with
    | some d => parseDigits (acc * 10 + d) cs
    | none => none

/-- A decimal integer with an optional leading `-`: at least one digit. That leading zeros and `-0` are accepted and a
leading `+` is not is the model's. DESIGN CHOICE, log 20. -/
def parseInt : List Char → Option Int
  | [] => none
  | '-' :: c :: cs => (parseDigits 0 (c :: cs)).map fun n => -(n : Int)
  | c :: cs => (parseDigits 0 (c :: cs)).map fun n => (n : Int)

/-- The words of a line, separated by one or more spaces; spaces before and after are dropped, and a tab is no space.
R91 does not say how words are separated. DESIGN CHOICE, log 20. -/
def splitWords (word : List Char) : List Char → List (List Char)
  | [] => if word = [] then [] else [word.reverse]
  | c :: cs =>
    if c = ' ' then (if word = [] then splitWords [] cs else word.reverse :: splitWords [] cs)
    else splitWords (c :: word) cs

/-- The command word `(op, arg)` of a line (R91). `RANGE` takes any integer here and is rejected at CmdIssue. Where
`arg` is ignored it is 0, and for `ABC on` it is 1, as in 95_test_vectors.md. -/
def assembleLine (line : String) : Option (BitVec 3 × Int) :=
  match splitWords [] line.toList with
  | [m] =>
    if m = "READ".toList then some (Op.code .read, 0)
    else if m = "ZERO".toList then some (Op.code .zero, 0)
    else none
  | [m, x] =>
    if m = "ABC".toList then
      if x = "on".toList then some (Op.code .abc, 1)
      else if x = "off".toList then some (Op.code .abc, 0)
      else none
    else if m = "SPAN".toList then (parseInt x).map fun n => (Op.code .span, n)
    else if m = "RANGE".toList then (parseInt x).map fun n => (Op.code .range, n)
    else none
  | _ => none

end Sys2Proof.Machine
end

