-- ==== Sys2Proof/Tests/Slice0.lean ====
section
/-! SUPPORT. Tests. Expected results are the spec's: the words of opcode_table.json, the vectors of
95_test_vectors.md (their ids are in the comments), the literals of R85. Then, for every statement with hypotheses,
a witness that meets them. -/

namespace Sys2Proof.Tests

open Sys2Proof Sys2Proof.Machine

/-- An idle state with known contents. -/
def base : State where
  phase := .idle
  curOp := .read
  txf := #v[0xFF, 0x01, 0x86, 0x00, 0x00, 0x00, 0x00, 0x00, 0x79]
  txi := 0
  rxb := #v[0, 0, 0, 0, 0, 0, 0, 0, 0]
  rxn := 0
  status := .none
  co2 := 0
  co2Valid := false
  txStream := []
  pending := []
  draws := 0

/-- `n` bytes of a frame of `op` have gone out. -/
def sending (op : Op) (f : Frame) (n : Fin 10) : State :=
  { base with phase := .tx, curOp := op, txf := f, txi := n, txStream := f.toList.take n.val }

/-- `n` bytes of a response have come. -/
def receiving (r : Frame) (n : Fin 10) : State :=
  { base with phase := .rx, txi := 9, rxb := r, rxn := n, txStream := base.txf.toList }

/-- The state after an accepted reading of 416, E6 and E7's start. -/
def read416 : State :=
  { base with
    txi := 9, rxb := #v[0xFF, 0x86, 0x01, 0xA0, 0, 0, 0, 0, 0x5A], rxn := 9, status := .ok, co2 := 416, co2Valid := true
    txStream := base.txf.toList }

def zeroFrame : Frame := #v[0xFF, 0x01, 0x87, 0x00, 0x00, 0x00, 0x00, 0x00, 0x78]

/-- The outcome is a next state that satisfies `p`. -/
def nextIs (o : Host.Outcome State Fault Refusal) (p : State → Bool) : Bool :=
  match o with
  | .next t => p t
  | _ => false

/-! ### Encodings -/

theorem test_illformed_span_above : Instr.illFormed (.span 65536) = some .spanOutOfRange := by decide
theorem test_illformed_span_below : Instr.illFormed (.span (-1)) = some .spanOutOfRange := by decide
theorem test_illformed_response : Instr.illFormed (.respRead 0 0 [0, 0, 0, 0, 0, 0]) = some .responseTooLong := by decide
theorem test_wellformed_edges :
    (Instr.span 0).wellFormed = true ∧ (Instr.span 65535).wellFormed = true ∧
      (Instr.respRead 1 2 [3, 4, 5, 6, 7]).wellFormed = true ∧ (Instr.respRead 1 2 []).wellFormed = true := by decide

/-- The words of opcode_table.json, its `match`; for SPAN 1000 and 4660 the frames of S7 and F17. -/
theorem test_table_words :
    decodeTableWord 72 0xFF0186000000000079 = some .read ∧
    decodeTableWord 72 0xFF0179A000000000E6 = some .abcOn ∧
    decodeTableWord 72 0xFF0179000000000086 = some .abcOff ∧
    decodeTableWord 72 0xFF0187000000000078 = some .zero ∧
    decodeTableWord 72 0xFF018803E80000008C = some (.span 1000) ∧
    decodeTableWord 72 0xFF0188000000000000 = some (.span 0) ∧
    decodeTableWord 72 0xFF01990000001388CB = some .range5000 ∧
    decodeTableWord 72 0xFF019900000007D08F = some .range2000 ∧
    decodeTableWord 72 0xFF8601A00000000000 = some (.respRead 0x01 0xA0 [0, 0, 0, 0, 0]) := by decide

/-- The `READ` frame bit by bit, as 95_test_vectors.md 2.3 writes it. -/
theorem test_read_bits : decode (frameOfBits
    0b111111110000000110000110000000000000000000000000000000000000000001111001).toList = .ok .read := by decide

theorem test_decode_span : decode [0xFF, 0x01, 0x88, 0x12, 0x34, 0, 0, 0, 0x31] = .ok (.span 4660) := by decide
theorem test_decode_short_response : decode [0xFF, 0x86, 0x02, 0x58] = .ok (.respRead 0x02 0x58 []) := by decide

theorem test_rejects_by_name :
    decode [] = .error (.tooShort 0) ∧
    decode [0xFF, 0x86, 0x01] = .error (.tooShort 3) ∧
    decode [0xFE, 0x86, 0x01, 0xA0] = .error (.badStart 0xFE) ∧
    decode [0xFF, 0x87, 0x01, 0xA0] = .error (.badResponseCode 0x87) ∧
    decode [0xFF, 0x01, 0x9A, 0, 0, 0, 0, 0, 0x65] = .error (.unknownCommand 0x9A) ∧
    decode [0xFF, 0x01, 0x79, 0xA6, 0, 0, 0, 0, 0xE0] = .error (.badPayload 0x79) ∧
    decode [0xFF, 0x01, 0x88, 0x03, 0xE8, 0, 0, 0, 0x8D] = .error (.badChecksum 0x8D) ∧
    decodeCommand [0xFF, 0x02, 0x86, 0, 0, 0, 0, 0, 0x78] = .error (.badAddress 0x02) ∧
    decode [0xFF, 0x86, 1, 2, 0, 0, 0, 0, 0, 0] = .error (.tooLong 10) := by decide

/-- F36 to F38, F31 to F35: what the port decoder rejects. -/
theorem test_port_rejects :
    decodePort 5 0 = .error (.reservedOp 5) ∧ decodePort 7 1 = .error (.reservedOp 7) ∧
      decodePort 4 5001 = .error (.unsupportedRange 5001) ∧ decodePort 1 256 = .ok .abcOn := by decide

/-- R91. -/
theorem test_lines :
    assembleLine "READ" = some (0, 0) ∧ assembleLine "ABC on" = some (1, 1) ∧ assembleLine "ABC off" = some (1, 0) ∧
      assembleLine "ZERO" = some (2, 0) ∧ assembleLine "SPAN 65536" = some (3, 65536) ∧
      assembleLine "SPAN -1" = some (3, -1) ∧ assembleLine "RANGE 1000" = some (4, 1000) ∧
      assembleLine "SPAN" = none ∧ assembleLine "SPAN 1x" = none := by decide

/-! ### The function layer -/

/-- K1, K2, K4, K10, K11, K16, K20, K21. -/
theorem test_checksum_vectors :
    checksum #v[0, 0, 0, 0, 0, 0, 0] = 0x00 ∧ checksum #v[0xFF, 0xFF, 0xFF, 0xFF, 0xFF, 0xFF, 0xFF] = 0x07 ∧
      checksum #v[0x80, 0, 0, 0, 0, 0, 0] = 0x80 ∧ checksum #v[0x12, 0x34, 0x56, 0x78, 0x9A, 0xBC, 0xDE] = 0xB8 ∧
      checksum #v[0x86, 0x01, 0xA0, 0, 0, 0, 0] = 0xD9 ∧ checksum #v[0x01, 0x79, 0xA6, 0, 0, 0, 0] = 0xE0 ∧
      checksum #v[0x01, 0x88, 0x00, 0x77, 0, 0, 0] = 0x00 ∧ checksum #v[0x01, 0x88, 0x01, 0x77, 0, 0, 0] = 0xFF := by
  decide

/-- R115, K12: the source's self-test. -/
theorem test_checksum_self : checksum #v[0x01, 0x86, 0, 0, 0, 0, 0] = 0x79 := by decide

/-- B3, B4, B10, B12, B14. -/
theorem test_split_join :
    split16 255 = (0x00, 0xFF) ∧ split16 256 = (0x01, 0x00) ∧ split16 4660 = (0x12, 0x34) ∧
      join16 0x80 0x00 = 32768 ∧ join16 0xFF 0xFF = 65535 := by decide

/-- F2, F5, F11, F14, F20, F21. -/
theorem test_build_frames :
    build 0 (-7) = .ok #v[0xFF, 0x01, 0x86, 0, 0, 0, 0, 0, 0x79] ∧
    build 1 (-1) = .ok #v[0xFF, 0x01, 0x79, 0xA0, 0, 0, 0, 0, 0xE6] ∧
    build 3 119 = .ok #v[0xFF, 0x01, 0x88, 0x00, 0x77, 0, 0, 0, 0x00] ∧
    build 3 375 = .ok #v[0xFF, 0x01, 0x88, 0x01, 0x77, 0, 0, 0, 0xFF] ∧
    build 3 32768 = .ok #v[0xFF, 0x01, 0x88, 0x80, 0x00, 0, 0, 0, 0xF7] ∧
    build 3 43981 = .ok #v[0xFF, 0x01, 0x88, 0xAB, 0xCD, 0, 0, 0, 0xFF] := by decide

/-- R138: the six frames the source gives as literals equal `MkFrame` of their fields. -/
theorem test_literal_frames :
    computedFrame .read = some #v[0xFF, 0x01, 0x86, 0, 0, 0, 0, 0, 0x79] ∧
    computedFrame .abcOn = some #v[0xFF, 0x01, 0x79, 0xA0, 0, 0, 0, 0, 0xE6] ∧
    computedFrame .abcOff = some #v[0xFF, 0x01, 0x79, 0, 0, 0, 0, 0, 0x86] ∧
    computedFrame .zero = some #v[0xFF, 0x01, 0x87, 0, 0, 0, 0, 0, 0x78] ∧
    computedFrame .range5000 = some #v[0xFF, 0x01, 0x99, 0, 0, 0, 0x13, 0x88, 0xCB] ∧
    computedFrame .range2000 = some #v[0xFF, 0x01, 0x99, 0, 0, 0, 0x07, 0xD0, 0x8F] := by decide

/-- F25, F26, F28, F32, F34, F35, F37. -/
theorem test_build_errors :
    build 3 65536 = .error .invalidArgument ∧ build 3 (-1) = .error .invalidArgument ∧
      build 3 2147483647 = .error .invalidArgument ∧ build 4 1000 = .error .invalidArgument ∧
      build 4 10000 = .error .invalidArgument ∧ build 4 (-2000) = .error .invalidArgument ∧
      build 6 5000 = .error .invalidArgument := by decide

/-- P1, P4, P5, P7, P10, P16, P17, P20, P21. -/
theorem test_parse_vectors :
    parseReadResponse [] = .error .malformedResponse ∧
    parseReadResponse [0xFF, 0x86, 0x01] = .error .malformedResponse ∧
    parseReadResponse [0xFF, 0x86, 0x01, 0xA0] = .ok 416 ∧
    parseReadResponse [0xFF, 0x86, 0x01, 0xA0, 0xDE, 0xAD, 0xBE, 0xEF, 0x00] = .ok 416 ∧
    parseReadResponse [0x00, 0xFF, 0x86, 0x01, 0xA0, 0, 0, 0, 0] = .error .malformedResponse ∧
    parseReadResponse [0xFF, 0x79, 0x01, 0, 0, 0, 0, 0, 0x86] = .error .malformedResponse ∧
    parseReadResponse [0x86, 0xFF, 0x01, 0xA0] = .error .malformedResponse ∧
    parseReadResponse [0xFF, 0x86, 0x01, 0xA0, 0, 0, 0, 0, 0, 0x11, 0x22] = .ok 416 ∧
    parseReadResponse [0xFF, 0x86, 0x12, 0x34, 0x00] = .ok 4660 := by decide

/-! ### Instructions: each word placed after reset is what the next step runs -/

/-- E1. -/
theorem test_read_from_reset : nextIs (step (State.reset.withFetchWord 72 0xFF0186000000000079)) (fun t =>
    t.phase = .tx ∧ t.curOp = .read ∧ t.txf = base.txf ∧ t.txi = 0 ∧ t.status = .none) = true := by decide

theorem test_abc_on_from_reset : nextIs (step (State.reset.withFetchWord 72 0xFF0179A000000000E6)) (fun t =>
    t.phase = .tx ∧ t.curOp = .abc ∧ t.txf = #v[0xFF, 0x01, 0x79, 0xA0, 0, 0, 0, 0, 0xE6]) = true := by decide

theorem test_abc_off_from_reset : nextIs (step (State.reset.withFetchWord 72 0xFF0179000000000086)) (fun t =>
    t.phase = .tx ∧ t.curOp = .abc ∧ t.txf = #v[0xFF, 0x01, 0x79, 0, 0, 0, 0, 0, 0x86]) = true := by decide

theorem test_zero_from_reset : nextIs (step (State.reset.withFetchWord 72 0xFF0187000000000078)) (fun t =>
    t.phase = .tx ∧ t.curOp = .zero ∧ t.txf = zeroFrame) = true := by decide

/-- E2. -/
theorem test_span_from_reset : nextIs (step (State.reset.withFetchWord 72 0xFF018803E80000008C)) (fun t =>
    t.phase = .tx ∧ t.curOp = .span ∧ t.txf = #v[0xFF, 0x01, 0x88, 0x03, 0xE8, 0, 0, 0, 0x8C]) = true := by decide

theorem test_range5000_from_reset : nextIs (step (State.reset.withFetchWord 72 0xFF01990000001388CB)) (fun t =>
    t.phase = .tx ∧ t.curOp = .range ∧ t.txf = #v[0xFF, 0x01, 0x99, 0, 0, 0, 0x13, 0x88, 0xCB]) = true := by decide

theorem test_range2000_from_reset : nextIs (step (State.reset.withFetchWord 72 0xFF019900000007D08F)) (fun t =>
    t.phase = .tx ∧ t.curOp = .range ∧ t.txf = #v[0xFF, 0x01, 0x99, 0, 0, 0, 0x07, 0xD0, 0x8F]) = true := by decide

theorem test_response_from_reset : nextIs (step (State.reset.withFetchWord 72 0xFF8601A0000000005A)) (fun t =>
    t.phase = .idle ∧ t.co2 = 416 ∧ t.co2Valid = true ∧ t.status = .ok ∧ t.rxn = 9 ∧ t.rxb[8] = 0x5A) = true := by decide

/-! ### Events -/

/-- E3: rejected, nothing else touched. -/
theorem test_span_rejected : nextIs (step { State.reset with pending := [.cmdIssue 3 65536] }) (fun t =>
    t.phase = .idle ∧ t.status = .invalidArgument ∧ t.co2Valid = false ∧ t.txStream = []) = true := by decide

/-- E6: a rejected command clears `co2_valid` and leaves the rest. -/
theorem test_rejected_clears_reading : nextIs (step { read416 with pending := [.cmdIssue 3 (-1)] }) (fun t =>
    t = { read416 with status := .invalidArgument, co2Valid := false }) = true := by decide

/-- E5: reserved `op`. -/
theorem test_reserved_op : nextIs (step { base with pending := [.cmdIssue 6 0] }) (fun t =>
    t = { base with status := .invalidArgument }) = true := by decide

/-- E8. -/
theorem test_first_byte : nextIs (step { sending .read base.txf 0 with pending := [.txByte] }) (fun t =>
    t = sending .read base.txf 1) = true := by decide

/-- E10: the ninth byte of `READ`. -/
theorem test_last_byte_read : nextIs (step { sending .read base.txf 8 with pending := [.txByte] }) (fun t =>
    t.phase = .rx ∧ t.status = .none ∧ t.txi = 9 ∧ t.txStream = base.txf.toList) = true := by decide

/-- E11: the ninth byte of `ZERO`. -/
theorem test_last_byte_zero : nextIs (step { sending .zero zeroFrame 8 with pending := [.txByte] }) (fun t =>
    t.phase = .idle ∧ t.status = .ok ∧ t.txi = 9 ∧ t.txStream = zeroFrame.toList) = true := by decide

/-- E14. -/
theorem test_write_failure : nextIs (step { sending .read base.txf 8 with pending := [.txFail] }) (fun t =>
    t.phase = .idle ∧ t.status = .transportError ∧ t.txi = 8) = true := by decide

/-- E16: a wrong first byte does not end the phase. -/
theorem test_wrong_first_byte : nextIs (step { receiving base.rxb 0 with pending := [.rxByte 0x00] }) (fun t =>
    t.phase = .rx ∧ t.rxn = 1 ∧ t.status = .none) = true := by decide

/-- E18: ninth byte, bad code. -/
theorem test_bad_code : nextIs (step
    { receiving #v[0xFF, 0x87, 0x01, 0xA0, 0, 0, 0, 0, 0] 8 with pending := [.rxByte 0] }) (fun t =>
    t.phase = .idle ∧ t.status = .malformedResponse ∧ t.co2Valid = false ∧ t.rxn = 9) = true := by decide

/-- E21: four bytes and the timeout. -/
theorem test_short_response : nextIs (step
    { receiving #v[0xFF, 0x86, 0x02, 0x58, 0, 0, 0, 0, 0] 4 with pending := [.rxTimeout] }) (fun t =>
    t.phase = .idle ∧ t.co2 = 600 ∧ t.co2Valid = true ∧ t.status = .ok) = true := by decide

/-- E22: stale bytes beyond `rxn` are not parsed. -/
theorem test_stale_byte : nextIs (step
    { receiving #v[0xFF, 0x86, 0x01, 0xA0, 0, 0, 0, 0, 0] 3 with pending := [.rxTimeout] }) (fun t =>
    t.status = .malformedResponse ∧ t.co2Valid = false) = true := by decide

/-- E23. -/
theorem test_read_failure : nextIs (step
    { receiving #v[0xFF, 0x86, 0x01, 0xA0, 0, 0, 0, 0, 0] 5 with pending := [.rxFail] }) (fun t =>
    t.phase = .idle ∧ t.status = .transportError ∧ t.co2Valid = false ∧ t.rxn = 5) = true := by decide

/-- E27: reset discards a reading. -/
theorem test_reset_discards : nextIs (step { read416 with pending := [.reset] }) (fun t =>
    t.phase = .idle ∧ t.status = .none ∧ t.co2Valid = false ∧ t.txi = 0 ∧ t.rxn = 0) = true := by decide

/-- 95_test_vectors.md 2.5, last paragraph: a command presented while busy causes no change. -/
theorem test_busy_holds : nextIs (step { sending .read base.txf 4 with pending := [.cmdIssue 2 0, .rxByte 1] }) (fun t =>
    t = { sending .read base.txf 4 with pending := [.cmdIssue 2 0, .rxByte 1] }) = true := by decide

/-! ### Witnesses: concrete values that meet the hypotheses of the statements -/

theorem witness_DecodeOfEncode : ∀ i ∈ [Instr.read, .abcOn, .abcOff, .zero, .span 0, .span 65535, .range5000, .range2000,
    .respRead 0xFF 0x00 [1, 2, 3, 4, 5]], i.wellFormed = true := by decide

theorem witness_EncodeOfDecode :
    decode [0xFF, 0x01, 0x88, 0xFF, 0xFF, 0, 0, 0, 0x79] = .ok (.span 65535) ∧
      decode [0xFF, 0x86, 1, 2, 3, 4, 5, 6, 7] = .ok (.respRead 1 2 [3, 4, 5, 6, 7]) := by decide

theorem witness_DecodeAgreesWithOpcodeTable : ∀ r ∈ opcodeTable, r.pattern &&& r.mask = r.pattern := by decide

theorem witness_PortWordsPresentTheirRows : ((1 : Int) ≠ 0) ∧ ((1999 : Int) ≠ 5000 ∧ (1999 : Int) ≠ 2000) ∧
    5 ≤ (5 : BitVec 3).toNat ∧ 5 ≤ (7 : BitVec 3).toNat := by decide

theorem witness_ChecksumLaws :
    build 3 0 = .ok #v[0xFF, 0x01, 0x88, 0, 0, 0, 0, 0, 0x77] ∧
    bodySum #v[0, 0, 0, 0, 0, 0, 0] + 256 = bodySum #v[255, 1, 0, 0, 0, 0, 0] ∧
    (#v[1, 2, 3, 4, 5, 6, 7] : Body).toList.Perm (#v[7, 6, 5, 4, 3, 2, 1] : Body).toList ∧
    ((0 : Fin 7) ≠ 6) ∧ (1 : Byte) ≠ (#v[0, 0, 0, 0, 0, 0, 0] : Body)[(6 : Fin 7)] := by decide

theorem witness_BuildFrames : ((-1 : Int) ≠ 0) ∧ ((0 : Int) ≤ 0 ∧ (0 : Int) ≤ 65535) ∧
    ((0 : Int) ≤ 65535 ∧ (65535 : Int) ≤ 65535) ∧ ((-1 : Int) < 0 ∨ (65535 : Int) < -1) ∧
    ((65536 : Int) < 0 ∨ (65535 : Int) < 65536) ∧ ((5001 : Int) ≠ 5000 ∧ (5001 : Int) ≠ 2000) ∧
    5 ≤ (5 : BitVec 3).toNat := by decide

theorem witness_BuiltFrameShape : ∀ op ∈ [0, 1, 2, 3, 4], (build op 5000).isOk = true := by decide

theorem witness_FramesTellCommandsApart : build 1 1 = build 1 (-1) ∧ (build 1 1).isOk = true := by decide

theorem witness_BuilderAgreesWithEncoder :
    (Instr.span 65535).wellFormed = true ∧ portOf (.span 65535) = some (3, 65535) ∧
      Instr.abcOn.wellFormed = true ∧ portOf .abcOn = some (1, 1) ∧
      Instr.range2000.wellFormed = true ∧ portOf .range2000 = some (4, 2000) := by decide

theorem witness_FixedCommandsComplete : base.phase = .idle := by decide

theorem witness_SpanInRangeCompletes : base.phase = .idle ∧ (0 : Int) ≤ 0 ∧ (65535 : Int) ≤ 65535 := by decide

theorem witness_SpanOutOfRangeRejected : base.phase = .idle ∧ ((-1 : Int) < 0 ∨ (65535 : Int) < -1) ∧
    ((65536 : Int) < 0 ∨ (65535 : Int) < 65536) := by decide

theorem witness_RespReadCompletes : (receiving base.rxb 4).phase = .rx := by decide

theorem witness_BusyCommandWaits : (sending .read base.txf 0).phase ≠ .idle ∧ (receiving base.rxb 0).phase ≠ .idle ∧
    portOf .read = some (0, 0) ∧ portOf (.span 65536) = some (3, 65536) := by decide

theorem witness_NoResponseOutsideRx : base.phase ≠ .rx ∧ (sending .read base.txf 0).phase ≠ .rx := by decide

theorem witness_CmdIssueFollowsBuild : base.phase = .idle ∧ build 3 65536 = .error .invalidArgument ∧
    build 2 0 = .ok zeroFrame := by decide

theorem witness_TxByteSendsNextByte :
    ((sending .read base.txf 0).phase = .tx ∧ (sending .read base.txf 0).txi = (0 : Fin 9).castSucc) ∧
    ((sending .read base.txf 7).txi = (7 : Fin 9).castSucc) ∧
    ((sending .read base.txf 8).txi = (8 : Fin 9).castSucc ∧ (sending .read base.txf 8).curOp = .read) ∧
    ((sending .zero zeroFrame 8).txi = (8 : Fin 9).castSucc ∧ (sending .zero zeroFrame 8).curOp ≠ .read) := by decide

theorem witness_TransportFailureEndsOperation :
    (sending .read base.txf 3).phase = .tx ∧ (receiving base.rxb 5).phase = .rx := by decide

theorem witness_RxByteStoresThenParses :
    ((receiving base.rxb 0).phase = .rx ∧ (receiving base.rxb 0).rxn = (0 : Fin 9).castSucc) ∧
    ((receiving base.rxb 7).rxn = (7 : Fin 9).castSucc) ∧
    ((receiving read416.rxb 8).rxn = (8 : Fin 9).castSucc ∧
      parseReadResponse ((receiving read416.rxb 8).rxb.set (8 : Fin 9) 0).toList = .ok 416) ∧
    (parseReadResponse ((receiving base.rxb 8).rxb.set (8 : Fin 9) 0).toList = .error .malformedResponse) := by decide

theorem witness_RxTimeoutParsesReceived :
    (receiving read416.rxb 4).phase = .rx ∧
    parseReadResponse ((receiving read416.rxb 4).rxb.toList.take (receiving read416.rxb 4).rxn.val) = .ok 416 ∧
    parseReadResponse ((receiving read416.rxb 3).rxb.toList.take (receiving read416.rxb 3).rxn.val) =
      .error .malformedResponse ∧
    (receiving read416.rxb 3).rxn.val ≤ 3 ∧ (receiving base.rxb 8).rxb[0] ≠ 0xFF ∧ (receiving base.rxb 8).rxb[1] ≠ 0x86 ∧
    (4 ≤ (receiving read416.rxb 4).rxn.val ∧ (receiving read416.rxb 4).rxb[0] = 0xFF ∧
      (receiving read416.rxb 4).rxb[1] = 0x86) := by decide

theorem witness_StepTakesFirstEnabled :
    (∀ x ∈ [Event.rxByte 1], enabled .idle x = false) ∧ enabled .idle (.cmdIssue 0 0) = true ∧
    [Event.rxByte 1, .cmdIssue 0 0, .txByte] = [Event.rxByte 1] ++ .cmdIssue 0 0 :: [.txByte] ∧
    (∀ x ∈ [Event.rxByte 1, .txByte], enabled .idle x = false) := by decide

theorem witness_StepRunsDecodedInstruction :
    (base.phase = .idle ∧ decodePort 0 7 = .ok .read) ∧
    ((receiving read416.rxb 8).phase = .rx ∧ (receiving read416.rxb 8).rxn = 8 ∧
      decodeResponse ((receiving read416.rxb 8).rxb.set 8 3).toList = .ok (.respRead 0x01 0xA0 [0, 0, 0, 0, 3])) ∧
    decodeResponse ((receiving read416.rxb 4).rxb.toList.take (receiving read416.rxb 4).rxn.val) =
      .ok (.respRead 0x01 0xA0 []) := by decide

theorem witness_StepRunsPlacedWord :
    (decodeTableWord 72 0xFF0187000000000078 = some .zero ∧ portOf .zero ≠ none) ∧
    (decodeTableWord 32 0xFF8601A0 = some (.respRead 0x01 0xA0 [0, 0, 0, 0, 0]) ∧
      portOf (.respRead 0x01 0xA0 [0, 0, 0, 0, 0]) = none) := by decide

/-- A state that takes a byte, and the step it makes. -/
theorem step_sending : step { sending .read base.txf 0 with pending := [.txByte] } = .next (sending .read base.txf 1) := rfl

theorem witness_RegistersHaveTheirWriters :
    takeEnabled (sending .read base.txf 0).phase [.txByte] = some (.txByte, []) ∧
    (∃ t, step { sending .read base.txf 0 with pending := [.txByte] } = .next t ∧
      t.txi ≠ (sending .read base.txf 0).txi ∧ t.txStream ≠ (sending .read base.txf 0).txStream) ∧
    takeEnabled read416.phase [.cmdIssue 2 0] = some (.cmdIssue 2 0, []) ∧
    (∃ t, step { read416 with pending := [.cmdIssue 2 0] } = .next t ∧ t.curOp ≠ read416.curOp ∧
      t.txf ≠ read416.txf ∧ t.rxn ≠ read416.rxn ∧ t.co2Valid ≠ read416.co2Valid) ∧
    takeEnabled (receiving read416.rxb 8).phase [.rxByte 1] = some (.rxByte 1, []) ∧
    (∃ t, step { receiving read416.rxb 8 with pending := [.rxByte 1] } = .next t ∧
      t.rxb ≠ (receiving read416.rxb 8).rxb ∧ t.co2 ≠ (receiving read416.rxb 8).co2) :=
  ⟨rfl, ⟨_, step_sending, by decide, by decide⟩, rfl, ⟨_, rfl, by decide, by decide, by decide, by decide⟩, rfl,
    ⟨_, rfl, by decide, by decide⟩⟩

theorem witness_ErrorsHaveTheirCauses :
    (enabled base.phase (.cmdIssue 3 65536) = true ∧ base.status = .none) ∧
    (∃ t, perform (.cmdIssue 3 65536) base = .next t ∧ t.status = .invalidArgument) ∧
    (∃ t, perform .txFail (sending .read base.txf 3) = .next t ∧ t.status = .transportError) ∧
    (∃ t, perform .rxTimeout (receiving base.rxb 3) = .next t ∧ t.status = .malformedResponse) :=
  ⟨by decide, ⟨_, rfl, rfl⟩, ⟨_, rfl, rfl⟩, ⟨_, rfl, rfl⟩⟩

theorem witness_NoAcknowledgementNeeded : { base with status := .malformedResponse }.phase = .idle := by decide

theorem witness_NoRetryNoPipelining :
    (∃ t, step { receiving base.rxb 0 with pending := [.rxByte 1] } = .next t ∧ t.phase = .rx) ∧
    (∃ t, step { sending .read base.txf 0 with pending := [.txByte] } = .next t ∧ t.phase ≠ .idle) ∧
    (∃ t, step { sending .read base.txf 8 with pending := [.txByte] } = .next t ∧ t.phase = .rx) :=
  ⟨⟨_, rfl, rfl⟩, ⟨_, rfl, by decide⟩, ⟨_, rfl, rfl⟩⟩

theorem witness_OnlyTheNextByteIsSent :
    ∃ t, step { sending .read base.txf 0 with pending := [.txByte] } = .next t ∧
      t.txStream ≠ (sending .read base.txf 0).txStream := ⟨_, step_sending, by decide⟩

theorem witness_AgentsAreHeld :
    (∃ t, step { sending .read base.txf 0 with pending := [.cmdIssue 2 0, .txByte, .rxByte 1] } = .next t ∧
      t.phase ≠ .idle ∧ waitingCommands t.pending = [.cmdIssue 2 0] ∧ waitingResponse t.pending = [.rxByte 1]) :=
  ⟨_, rfl, by decide, by decide, by decide⟩

theorem witness_ResultHeldUntilNextCommand :
    (read416.phase = .idle ∧ (∀ x ∈ [Event.rxByte 1], x.isCommand = false ∧ x ≠ .reset)) ∧
    (∃ t, step { receiving base.rxb 0 with pending := [.rxByte 1] } = .next t ∧ t.phase ≠ .idle) :=
  ⟨by decide, _, rfl, by decide⟩

theorem base_framed : base.txf[0] = 0xFF ∧ base.txf[1] = 0x01 ∧ base.txf[8] = checksum (frameBody base.txf) := by decide

theorem base_built : build 0 0 = .ok base.txf := by decide

theorem read416_valid : read416.status = .ok ∧ read416.phase = .idle ∧ read416.curOp = .read ∧ 4 ≤ read416.rxn.val ∧
    read416.rxb[0] = 0xFF ∧ read416.rxb[1] = 0x86 ∧
    read416.co2.toNat = read416.rxb[2].toNat * 256 + read416.rxb[3].toNat := by decide

/-- The invariants in phase `TX`, whatever is pending. -/
theorem inv_sending (pending : List Event) (n : Fin 9) :
    Inv { sending .read base.txf n.castSucc with pending := pending } where
  txPhase := fun _ => ⟨Nat.le_of_lt_succ n.isLt, rfl, rfl, rfl⟩
  rxPhase := nofun
  framed := fun _ => base_framed
  doneIdle := fun h => absurd rfl h
  validReading := nofun
  built := fun _ => ⟨0, base_built⟩

/-- The invariants in phase `RX`, with eight bytes received. -/
theorem inv_receiving (pending : List Event) : Inv { receiving read416.rxb 8 with pending := pending } where
  txPhase := nofun
  rxPhase := fun _ => ⟨rfl, rfl, Nat.le_refl 8, rfl, rfl, rfl⟩
  framed := fun _ => base_framed
  doneIdle := fun h => absurd rfl h
  validReading := nofun
  built := fun _ => ⟨0, base_built⟩

/-- The invariants with a reading. -/
theorem inv_read416 (pending : List Event) : Inv { read416 with pending := pending } where
  txPhase := nofun
  rxPhase := nofun
  framed := fun h => absurd rfl h
  doneIdle := fun _ => rfl
  validReading := fun _ => read416_valid
  built := fun h => absurd rfl h

theorem witness_StepKeepsInvariants :
    (Inv { sending .read base.txf 8 with pending := [.txByte] } ∧
      ∃ t, step { sending .read base.txf 8 with pending := [.txByte] } = .next t ∧ t.phase = .rx) ∧
    (Inv { receiving read416.rxb 8 with pending := [.rxByte 1] } ∧
      ∃ t, step { receiving read416.rxb 8 with pending := [.rxByte 1] } = .next t ∧ t.co2Valid = true) ∧
    (Inv { read416 with pending := [.cmdIssue 2 0] } ∧
      ∃ t, step { read416 with pending := [.cmdIssue 2 0] } = .next t ∧ t.phase = .tx) :=
  ⟨⟨inv_sending _ 8, _, rfl, rfl⟩, ⟨inv_receiving _, _, rfl, rfl⟩, ⟨inv_read416 _, _, rfl, rfl⟩⟩

theorem witness_ReachableStatesMeetInvariants : ∃ s, Reachable s ∧ s.phase = .tx :=
  ⟨_, .step (.agents [.cmdIssue 0 0] .reset) rfl, rfl⟩

theorem witness_InvariantsExcludeStops : Inv { sending .read base.txf 0 with pending := [.txByte] } := inv_sending _ 0

theorem witness_StepKeepsSentOnStream : SentOnStream { sending .read base.txf 3 with pending := [.txByte] } ∧
    ∃ t, step { sending .read base.txf 3 with pending := [.txByte] } = .next t ∧ t.txi = 4 :=
  ⟨⟨[], rfl⟩, _, rfl, rfl⟩

/-- Two states that differ in every register an earlier operation may have left. -/
theorem witness_NoValueFromEarlierOperations :
    SameWork { base with pending := [.cmdIssue 0 0] }
      { base with
        pending := [.cmdIssue 0 0], curOp := .span, txf := zeroFrame, txi := 9, rxb := read416.rxb, rxn := 9, co2 := 416
        txStream := [1], draws := 5 } ∧
    ∃ t, step { base with pending := [.cmdIssue 0 0] } = .next t ∧ t.phase = .tx :=
  ⟨{ phase := rfl, pending := rfl, status := rfl, co2Valid := rfl, co2 := nofun, sending := nofun,
     receiving := fun h => absurd rfl h }, _, rfl, rfl⟩

/-- Once idle with nothing pending, the machine stays so. -/
theorem run_idle {s : State} (hp : s.pending = []) (k : Nat) : Sys2Proof.core.run k s = .next s := by
  have hs : step s = .next s := by simp [step, hp, takeEnabled]
  induction k with
  | zero => rfl
  | succ k ih => rw [run_succ hs, ih]

/-- An operation under way whose transport keeps an event ready: the fairness of R174. -/
theorem witness_OperationEndsUnderFairness :
    Inv { sending .read base.txf 0 with pending := [.txFail] } ∧
    (sending .read base.txf 0).phase ≠ .idle ∧
    ∀ k t, k < 18 → Sys2Proof.core.run k { sending .read base.txf 0 with pending := [.txFail] } = .next t →
      t.phase ≠ .idle → someEnabled t = true := by
  refine ⟨inv_sending _ 0, by decide, fun k t _ h hp => ?_⟩
  have hs : step { sending .read base.txf 0 with pending := [.txFail] } =
      .next { sending .read base.txf 0 with status := .transportError, phase := .idle } := rfl
  cases k with
  | zero =>
    obtain rfl := Host.Outcome.next.inj ((run_zero _).symm.trans h)
    decide
  | succ k =>
    rw [run_succ hs, run_idle rfl] at h
    obtain rfl := Host.Outcome.next.inj h
    exact absurd rfl hp

theorem witness_SendOnlyOperation : base.phase = .idle ∧ (2 : BitVec 3) ≠ 0 ∧ build 2 0 = .ok zeroFrame ∧
    ∃ s : State, s.phase = .idle ∧ s.pending = .cmdIssue 2 0 :: (List.replicate 9 .txByte ++ []) :=
  ⟨by decide, by decide, by decide, { base with pending := _ }, rfl, rfl⟩

theorem witness_WriteFailureOperation : build 2 0 = .ok zeroFrame ∧ ∀ k : Fin 9,
    ∃ s : State, s.phase = .idle ∧ s.pending = .cmdIssue 2 0 :: (List.replicate k.val .txByte ++ .txFail :: []) :=
  ⟨by decide, fun _ => ⟨{ base with pending := _ }, rfl, rfl⟩⟩

theorem witness_ReadOperation : ∀ p ∈ [(read416.rxb.toList, ([] : List Event)), ([0xFF, 0x86, 0x02, 0x58], [.rxTimeout]),
      ([], [.rxTimeout])],
    (p.1.length = 9 ∧ p.2 = [] ∨ p.1.length ≤ 8 ∧ p.2 = [.rxTimeout]) ∧
    ∃ s : State, s.phase = .idle ∧
      s.pending = .cmdIssue 0 0 :: (List.replicate 9 .txByte ++ (p.1.map .rxByte ++ (p.2 ++ []))) :=
  fun p hp => ⟨by revert p; decide, { base with pending := _ }, rfl, rfl⟩

theorem witness_ReadFailureOperation : ([0xFF, 0x86, 0x01, 0xA0, 0x00] : List Byte).length ≤ 8 ∧
    ∃ s : State, s.phase = .idle ∧ s.pending = .cmdIssue 0 0 :: (List.replicate 9 .txByte ++
      (([0xFF, 0x86, 0x01, 0xA0, 0x00] : List Byte).map .rxByte ++ .rxFail :: [])) :=
  ⟨by decide, { base with pending := _ }, rfl, rfl⟩

theorem witness_ReadingVisibleAtBothWidths : Inv read416 ∧ hostRead .co2Valid read416 = 1 :=
  ⟨inv_read416 [], by decide⟩

end Sys2Proof.Tests
end

/-! SUPPORT. Facts about built frames, received bytes, events and steps that the state's statements need. -/

namespace Sys2Proof.Machine

/-! ### Built frames and received bytes -/

/-- Every frame `Build` gives is one that `MkFrame` makes (R137). -/
theorem build_eq_mkFrame {op : BitVec 3} {arg : Int} {f : Frame} (h : build op arg = .ok f) :
    ∃ cmd d0 d1 d2 d3 d4, f = mkFrame cmd d0 d1 d2 d3 d4 := by
  unfold build at h
  split at h
  · exact ⟨_, _, _, _, _, _, (Except.ok.inj h).symm⟩
  · exact ⟨_, _, _, _, _, _, (Except.ok.inj h).symm⟩
  · exact ⟨_, _, _, _, _, _, (Except.ok.inj h).symm⟩
  · unfold buildSpan at h
    split at h
    · cases h
    · exact ⟨_, _, _, _, _, _, (Except.ok.inj h).symm⟩
  · unfold buildRange at h
    split at h
    · exact ⟨_, _, _, _, _, _, (Except.ok.inj h).symm.trans mkFrame_range5000.symm⟩
    · split at h
      · exact ⟨_, _, _, _, _, _, (Except.ok.inj h).symm.trans mkFrame_range2000.symm⟩
      · cases h
  · cases h

/-- A built frame starts with `FF 01` and ends with its checksum (R137). -/
theorem build_framed {op : BitVec 3} {arg : Int} {f : Frame} (h : build op arg = .ok f) :
    f[0] = 0xFF ∧ f[1] = 0x01 ∧ f[8] = checksum (frameBody f) := by
  obtain ⟨cmd, d0, d1, d2, d3, d4, rfl⟩ := build_eq_mkFrame h
  exact ⟨rfl, rfl, rfl⟩

theorem build_read (arg : Int) : build Op.read.code arg = .ok buildRead := rfl

/-- The parser accepts `FF 86` and two value bytes, whatever follows (R150). -/
theorem parseReadResponse_ok {r : List Byte} {v : Word16} (h : parseReadResponse r = .ok v) :
    ∃ hi lo ignored, r = 0xFF :: 0x86 :: hi :: lo :: ignored ∧ v = join16 hi lo := by
  unfold parseReadResponse at h
  split at h
  · rename_i b0 b1 hi lo ignored
    split at h
    · rename_i hb
      obtain ⟨rfl, rfl⟩ := hb
      exact ⟨hi, lo, ignored, rfl, (Except.ok.inj h).symm⟩
    · cases h
  · cases h

theorem join16_toNat (hi lo : Byte) : (join16 hi lo).toNat = hi.toNat * 256 + lo.toNat := by
  have := hi.isLt
  have := lo.isLt
  simp only [join16, BitVec.toNat_ofNat]
  omega

/-- A received byte is the byte of `rxb` at its offset (R25). -/
theorem rxb_eq_of_received {s : State} {k : Nat} {b : Byte} (hk : k < 9) (h : (received s)[k]? = some b) :
    s.rxb[k] = b := by
  rw [received, List.getElem?_take] at h
  split at h
  · simpa [hk] using h
  · cases h

/-! ### What an event and a step answer, as equations -/

theorem code_inj {o o' : Op} (h : o.code = o'.code) : o = o' :=
  Option.some.inj ((ofCode_code o).symm.trans ((congrArg Op.ofCode h).trans (ofCode_code o')))

theorem cmdIssue_of_build_error {s : State} {op : BitVec 3} {arg : Int} {e : ErrorKind} (hp : s.phase = .idle)
    (hb : build op arg = .error e) : cmdIssue op arg s = .next (raise .invalidArgument (dropReading s)) := by
  rcases cmdIssue_cases op arg hp with ⟨-, hc⟩ | ⟨o, f, -, hb', -⟩
  · exact hc
  · simp [hb] at hb'

theorem cmdIssue_of_build_ok {s : State} {o : Op} {arg : Int} {f : Frame} (hp : s.phase = .idle)
    (hb : build o.code arg = .ok f) : cmdIssue o.code arg s = .next (acceptCommand o f (dropReading s)) := by
  rcases cmdIssue_cases o.code arg hp with ⟨hb', -⟩ | ⟨o', f', ho, hb', hc⟩
  · simp [hb] at hb'
  · obtain rfl := code_inj ho
    obtain rfl := Except.ok.inj (hb.symm.trans hb')
    exact hc

theorem txByte_of_lt_eight {s : State} (hn : s.txi.val < 9) (h8 : s.txi.val < 8) :
    txByte s = .next (sendByte s hn) := by
  simp [txByte, hn, show s.txi.val ≠ 8 by omega]

theorem txByte_ninth_read {s : State} (hn : s.txi.val < 9) (h8 : s.txi.val = 8) (hr : s.curOp = .read) :
    txByte s = .next (enterRx (sendByte s hn)) := by
  simp [txByte, h8, hr]

theorem txByte_ninth_other {s : State} (hn : s.txi.val < 9) (h8 : s.txi.val = 8) (hr : s.curOp ≠ .read) :
    txByte s = .next (endOk (sendByte s hn)) := by
  simp [txByte, h8, hr]

theorem rxByte_of_lt_eight {s : State} (b : Byte) (hn : s.rxn.val < 9) (h8 : s.rxn.val < 8) :
    rxByte b s = .next (storeByte b s hn) := by
  simp [rxByte, hn, show s.rxn.val ≠ 8 by omega]

theorem rxByte_ninth {s : State} (b : Byte) (hn : s.rxn.val < 9) (h8 : s.rxn.val = 8) :
    rxByte b s = finish (storeByte b s hn) := by
  simp [rxByte, h8]

theorem step_of_takeEnabled {s : State} {e : Event} {rest : List Event}
    (h : takeEnabled s.phase s.pending = some (e, rest)) : step s = perform e { s with pending := rest } := by
  simp [step, h]

theorem step_of_takeEnabled_none {s : State} (h : takeEnabled s.phase s.pending = none) : step s = .next s := by
  simp [step, h]

end Sys2Proof.Machine

/-! SUPPORT. The invariants of R32, kept by every event and every step. -/

namespace Sys2Proof.Machine

/-! ### The invariants, phase by phase -/

/-- What the agents have ready is in no invariant. -/
theorem Inv.set_pending {s : State} (h : Inv s) (pending : List Event) : Inv { s with pending := pending } :=
  ⟨h.txPhase, h.rxPhase, h.framed, h.doneIdle, h.validReading, h.built⟩

/-- An idle state without a reading meets the invariants, whatever its other registers hold. -/
theorem inv_of_idle_of_no_reading {s : State} (hp : s.phase = .idle) (hv : s.co2Valid = false) : Inv s where
  txPhase h := by simp [hp] at h
  rxPhase h := by simp [hp] at h
  framed h := absurd hp h
  doneIdle _ := hp
  validReading h := by simp [hv] at h
  built h := absurd hp h

/-- While the block is busy there is no reading and no result (V2, V3). -/
theorem Inv.busy {s : State} (h : Inv s) (hp : s.phase ≠ .idle) : s.status = .none ∧ s.co2Valid = false := by
  cases hs : s.phase with
  | idle => exact absurd hs hp
  | tx =>
    obtain ⟨-, -, hst, hv⟩ := h.txPhase hs
    exact ⟨hst, hv⟩
  | rx =>
    obtain ⟨-, -, -, hst, hv, -⟩ := h.rxPhase hs
    exact ⟨hst, hv⟩

/-- A failure during an operation leaves no reading (R164, R169, R196). -/
theorem inv_raise {s : State} (h : Inv s) (e : ErrorKind) (hp : s.phase ≠ .idle) : Inv (raise e s) :=
  inv_of_idle_of_no_reading rfl (h.busy hp).2

/-- An accepted command starts with a built frame, of which nothing has been sent (R161). -/
theorem inv_acceptCommand {o : Op} {arg : Int} {f : Frame} (hb : build o.code arg = .ok f) (s : State) :
    Inv (acceptCommand o f (dropReading s)) where
  txPhase _ := ⟨Nat.zero_le 8, rfl, rfl, rfl⟩
  rxPhase := nofun
  framed _ := build_framed hb
  doneIdle h := absurd rfl h
  validReading := nofun
  built _ := ⟨arg, hb⟩

/-- A frame byte before the ninth goes out (R163). -/
theorem inv_sendByte {s : State} (h : Inv s) (hp : s.phase = .tx) (hn : s.txi.val < 9) (h8 : s.txi.val < 8) :
    Inv (sendByte s hn) := by
  obtain ⟨-, hrxn, hst, hv⟩ := h.txPhase hp
  exact
    { txPhase := fun _ => ⟨h8, hrxn, hst, hv⟩
      rxPhase := fun hrx => by simp [hp] at hrx
      framed := h.framed
      doneIdle := h.doneIdle
      validReading := fun hc => by simp [hv] at hc
      built := h.built }

/-- The ninth byte of a `READ` goes out: the frame sent is the one frame `Build` gives for `READ` (R163, V3). -/
theorem inv_enterRx_sendByte {s : State} (h : Inv s) (hp : s.phase = .tx) (hn : s.txi.val < 9)
    (h8 : s.txi.val = 8) (hr : s.curOp = .read) : Inv (enterRx (sendByte s hn)) := by
  obtain ⟨-, hrxn, hst, hv⟩ := h.txPhase hp
  have hbusy : s.phase ≠ .idle := by simp [hp]
  obtain ⟨arg, hb⟩ := h.built hbusy
  have hf : s.txf = buildRead := by
    rw [hr, build_read] at hb
    exact (Except.ok.inj hb).symm
  exact
    { txPhase := nofun
      rxPhase := fun _ => ⟨hr, by simp [h8], by simp [hrxn], hst, hv, hf.trans buildRead_eq⟩
      framed := fun _ => h.framed hbusy
      doneIdle := fun hs => absurd hst hs
      validReading := fun hc => by simp [hv] at hc
      built := fun _ => h.built hbusy }

/-- A response byte before the ninth is stored (R166). -/
theorem inv_storeByte {s : State} (h : Inv s) (b : Byte) (hp : s.phase = .rx) (hn : s.rxn.val < 9)
    (h8 : s.rxn.val < 8) : Inv (storeByte b s hn) := by
  obtain ⟨hr, htxi, -, hst, hv, hf⟩ := h.rxPhase hp
  exact
    { txPhase := fun htx => by simp [hp] at htx
      rxPhase := fun _ => ⟨hr, htxi, h8, hst, hv, hf⟩
      framed := h.framed
      doneIdle := h.doneIdle
      validReading := fun hc => by simp [hv] at hc
      built := h.built }

/-- A `READ` ends with the reading that the received bytes parse to (R170, V6). -/
theorem inv_acceptReading {s : State} {v : Word16} (hr : s.curOp = .read)
    (hv : parseReadResponse (received s) = .ok v) : Inv (acceptReading v s) := by
  obtain ⟨hi, lo, ignored, hl, rfl⟩ := parseReadResponse_ok hv
  have hrxn : 4 ≤ s.rxn.val := by
    rw [← received_length, hl]
    simp
  have h0 : s.rxb[0] = 0xFF := rxb_eq_of_received (by omega) (by simp [hl])
  have h1 : s.rxb[1] = 0x86 := rxb_eq_of_received (by omega) (by simp [hl])
  have h2 : s.rxb[2] = hi := rxb_eq_of_received (by omega) (by simp [hl])
  have h3 : s.rxb[3] = lo := rxb_eq_of_received (by omega) (by simp [hl])
  exact
    { txPhase := nofun
      rxPhase := nofun
      framed := fun hb => absurd rfl hb
      doneIdle := fun _ => rfl
      validReading := fun _ => ⟨rfl, rfl, hr, hrxn, h0, h1, by simp [h2, h3, join16_toNat]⟩
      built := fun hb => absurd rfl hb }

/-! ### Events, steps and runs -/

/-- Every enabled event keeps the invariants. -/
theorem inv_perform {s t : State} {e : Event} (h : Inv s) (he : enabled s.phase e = true)
    (ht : perform e s = .next t) : Inv t := by
  rcases perform_cases he ht with ⟨hp, op, arg, -, hc⟩ | ⟨hp, -, hn, hc⟩ | ⟨hp, -, rfl⟩ |
    ⟨hp, b, -, hn, hc⟩ | ⟨hp, -, hc⟩ | ⟨hp, -, rfl⟩ | ⟨-, rfl⟩
  · -- CmdIssue
    rcases hc with ⟨-, rfl⟩ | ⟨o, f, rfl, hb, rfl⟩
    · exact inv_of_idle_of_no_reading rfl rfl
    · exact inv_acceptCommand hb s
  · -- TxByte
    rcases hc with ⟨h8, rfl⟩ | ⟨h8, hr, rfl⟩ | ⟨-, -, rfl⟩
    · exact inv_sendByte h hp hn h8
    · exact inv_enterRx_sendByte h hp hn h8 hr
    · exact inv_of_idle_of_no_reading rfl (h.busy (by simp [hp])).2
  · -- TxFail
    exact inv_raise h .transportError (by simp [hp])
  · -- RxByte
    rcases hc with ⟨h8, rfl⟩ | ⟨-, ⟨v, hv, rfl⟩ | ⟨-, rfl⟩⟩
    · exact inv_storeByte h b hp hn h8
    · exact inv_acceptReading (h.rxPhase hp).1 hv
    · exact inv_of_idle_of_no_reading rfl (h.busy (by simp [hp])).2
  · -- RxTimeout
    rcases hc with ⟨v, hv, rfl⟩ | ⟨-, rfl⟩
    · exact inv_acceptReading (h.rxPhase hp).1 hv
    · exact inv_raise h .malformedResponse (by simp [hp])
  · -- RxFail
    exact inv_raise h .transportError (by simp [hp])
  · -- Reset
    exact inv_of_idle_of_no_reading rfl rfl

/-- Settles O42: the event a step performs keeps the invariants, and which events are pending is in none of them. -/
theorem stepKeepsInvariants : Obligations.StepKeepsInvariants := by
  intro s t h ht
  rcases step_cases ht with ⟨-, rfl⟩ | ⟨e, rest, -, he, hp⟩
  · exact h
  · exact inv_perform (h.set_pending rest) he hp

end Sys2Proof.Machine

/-! SUPPORT. What the TX stream ends with (R196), the states of a run, and that under the invariants nothing stops. -/

namespace Sys2Proof.Machine

/-- The bytes handed over are told by the frame, its count and the stream alone. -/
theorem sentOnStream_congr {s t : State} (h : SentOnStream s) (hf : t.txf = s.txf) (hi : t.txi = s.txi)
    (hs : t.txStream = s.txStream) : SentOnStream t := by
  rwa [SentOnStream, hf, hi, hs]

/-- Of a frame of which nothing has been sent, nothing is asked of the stream. -/
theorem sentOnStream_of_txi_zero {s : State} (hi : s.txi = 0) : SentOnStream s := by
  simp [SentOnStream, hi]

/-- The byte that `txi` comes to count is the byte that goes on the stream (R163). -/
theorem sentOnStream_sendByte {s : State} (h : SentOnStream s) (hn : s.txi.val < 9) :
    SentOnStream (sendByte s hn) := by
  obtain ⟨earlier, he⟩ := h
  have htake : s.txf.toList.take (s.txi.val + 1) = s.txf.toList.take s.txi.val ++ [s.txf[s.txi.val]] := by
    rw [List.take_add_one, List.getElem?_eq_getElem (by simpa using hn)]
    rfl
  refine ⟨earlier, ?_⟩
  simp only [sendByte_txf, sendByte_txi, sendByte_txStream]
  rw [htake, ← List.append_assoc, he]

/-- Every enabled event keeps the relation of the TX stream to the frame (R196). -/
theorem sentOnStream_perform {s t : State} {e : Event} (h : SentOnStream s) (he : enabled s.phase e = true)
    (ht : perform e s = .next t) : SentOnStream t := by
  rcases perform_cases he ht with ⟨-, op, arg, -, hc⟩ | ⟨-, -, hn, hc⟩ | ⟨-, -, rfl⟩ |
    ⟨-, b, -, hn, hc⟩ | ⟨-, -, hc⟩ | ⟨-, -, rfl⟩ | ⟨-, rfl⟩
  · -- CmdIssue
    rcases hc with ⟨-, rfl⟩ | ⟨o, f, -, -, rfl⟩
    · exact sentOnStream_congr h rfl rfl rfl
    · exact sentOnStream_of_txi_zero rfl
  · -- TxByte
    have hsent := sentOnStream_sendByte h hn
    rcases hc with ⟨-, rfl⟩ | ⟨-, -, rfl⟩ | ⟨-, -, rfl⟩
    · exact hsent
    · exact sentOnStream_congr hsent rfl rfl rfl
    · exact sentOnStream_congr hsent rfl rfl rfl
  · -- TxFail
    exact sentOnStream_congr h rfl rfl rfl
  · -- RxByte
    rcases hc with ⟨-, rfl⟩ | ⟨-, ⟨v, -, rfl⟩ | ⟨-, rfl⟩⟩ <;> exact sentOnStream_congr h rfl rfl rfl
  · -- RxTimeout
    rcases hc with ⟨v, -, rfl⟩ | ⟨-, rfl⟩ <;> exact sentOnStream_congr h rfl rfl rfl
  · -- RxFail
    exact sentOnStream_congr h rfl rfl rfl
  · -- Reset
    exact sentOnStream_of_txi_zero rfl

/-- Every step keeps the relation of the TX stream to the frame (R196). -/
theorem sentOnStream_step {s t : State} (h : SentOnStream s) (ht : step s = .next t) : SentOnStream t := by
  rcases step_cases ht with ⟨-, rfl⟩ | ⟨e, rest, -, he, hp⟩
  · exact h
  · exact sentOnStream_perform (s := { s with pending := rest }) (sentOnStream_congr h rfl rfl rfl) he hp

/-- Settles O41: after reset the block is idle, without a reading and with nothing sent. -/
theorem invariantsAtReset : Obligations.InvariantsAtReset :=
  ⟨inv_of_idle_of_no_reading reset_phase reset_co2Valid, sentOnStream_of_txi_zero reset_txi⟩

/-- Settles O43, by induction on the run: what the agents do touches only `pending`, and a step keeps both. -/
theorem reachableStatesMeetInvariants : Obligations.ReachableStatesMeetInvariants := by
  intro s h
  induction h with
  | reset => exact invariantsAtReset
  | agents pending _ ih =>
    obtain ⟨hinv, hsent⟩ := ih
    exact ⟨hinv.set_pending pending, sentOnStream_congr hsent rfl rfl rfl⟩
  | step _ ht ih =>
    obtain ⟨hinv, hsent⟩ := ih
    exact ⟨stepKeepsInvariants _ _ hinv ht, sentOnStream_step hsent ht⟩

/-! ### No stop -/

theorem txByte_next {s : State} (hn : s.txi.val < 9) : ∃ t, txByte s = .next t :=
  ⟨_, dif_pos hn⟩

theorem rxByte_next {s : State} (b : Byte) (hp : s.phase = .rx) (hn : s.rxn.val < 9) :
    ∃ t, rxByte b s = .next t := by
  rw [rxByte, dif_pos hn]
  split
  · exact ⟨_, finish_eq (by simpa using hp)⟩
  · exact ⟨_, rfl⟩

/-- Under the invariants no enabled event stops the machine: there is a byte to send in `TX` (V2) and room for one
in `RX` (V3). -/
theorem perform_next {s : State} {e : Event} (h : Inv s) (he : enabled s.phase e = true) :
    ∃ t, perform e s = .next t := by
  cases e with
  | cmdIssue op arg =>
    rcases cmdIssue_cases op arg (by simpa [enabled] using he) with ⟨-, hc⟩ | ⟨o, f, -, -, hc⟩
    · exact ⟨_, hc⟩
    · exact ⟨_, hc⟩
  | txByte =>
    obtain ⟨htxi, -⟩ := h.txPhase (by simpa [enabled] using he)
    exact txByte_next (by omega)
  | txFail => exact ⟨_, rfl⟩
  | rxByte b =>
    have hp : s.phase = .rx := by simpa [enabled] using he
    obtain ⟨-, -, hrxn, -⟩ := h.rxPhase hp
    exact rxByte_next b hp (by omega)
  | rxTimeout => exact ⟨_, finish_eq (by simpa [enabled] using he)⟩
  | rxFail => exact ⟨_, rfl⟩
  | reset => exact ⟨_, rfl⟩

/-- Settles O44: a step performs an enabled event or answers the same state, and neither stops. -/
theorem invariantsExcludeStops : Obligations.InvariantsExcludeStops := by
  intro s h
  cases hs : takeEnabled s.phase s.pending with
  | none => exact ⟨s, step_of_takeEnabled_none hs⟩
  | some r =>
    obtain ⟨e, rest⟩ := r
    rw [step_of_takeEnabled hs]
    exact perform_next (h.set_pending rest) (takeEnabled_some hs).1

end Sys2Proof.Machine

/-! SUPPORT. Which event writes which register (R20), and the host's view of the codes and outputs (R29, R30). -/

namespace Sys2Proof.Machine

/-- Settles O34: for each event, what it writes is what R20 lists. -/
theorem registersHaveTheirWriters : Obligations.RegistersHaveTheirWriters := by
  intro s t e rest hs ht
  rw [step_of_takeEnabled hs] at ht
  rcases perform_cases (s := { s with pending := rest }) (takeEnabled_some hs).1 ht with
    ⟨-, op, arg, rfl, hc⟩ | ⟨-, rfl, hn, hc⟩ | ⟨-, rfl, rfl⟩ | ⟨-, b, rfl, hn, hc⟩ | ⟨-, rfl, hc⟩ | ⟨-, rfl, rfl⟩ |
    ⟨rfl, rfl⟩
  · -- CmdIssue
    rcases hc with ⟨-, rfl⟩ | ⟨o, f, -, -, rfl⟩ <;> simp [Event.isCommand]
  · -- TxByte
    rcases hc with ⟨-, rfl⟩ | ⟨-, -, rfl⟩ | ⟨-, -, rfl⟩ <;> simp
  · -- TxFail
    simp
  · -- RxByte
    rcases hc with ⟨-, rfl⟩ | ⟨-, ⟨v, -, rfl⟩ | ⟨-, rfl⟩⟩ <;> simp [Event.isRxByte]
  · -- RxTimeout
    rcases hc with ⟨v, -, rfl⟩ | ⟨-, rfl⟩ <;> simp
  · -- RxFail
    simp
  · -- Reset
    simp

/-- Settles O30: the registers by the laws of the reset state, the outputs by R29's equations. -/
theorem resetValues : Obligations.ResetValues :=
  ⟨reset_phase, reset_status, reset_co2Valid, reset_txi, reset_rxn, by simp [State.busy],
    by simp [State.cmdReady], by simp [State.done]⟩

/-! ### Codes and outputs -/

/-- A phase is told by its code (R21). -/
theorem phase_code_inj {p q : Phase} : p.code.toNat = q.code.toNat ↔ p = q := by
  cases p <;> cases q <;> decide

/-- A status is told by its code (R27). -/
theorem status_code_inj {p q : Status} : p.code.toNat = q.code.toNat ↔ p = q := by
  cases p <;> cases q <;> decide

theorem hostRead_busy (s : State) : hostRead .busy s = 1 ↔ s.phase ≠ .idle := by
  simp [hostRead, State.busy]

theorem hostRead_cmdReady (s : State) : hostRead .cmdReady s = 1 ↔ s.phase = .idle := by
  simp [hostRead, State.cmdReady]

theorem hostRead_done (s : State) : hostRead .done s = 1 ↔ s.status ≠ .none := by
  simp [hostRead, State.done]

/-- Settles O52: codes tell phases and statuses apart, and `CmdIssue` is enabled exactly in `IDLE`. -/
theorem hostReadsCodesAndOutputs : Obligations.HostReadsCodesAndOutputs := by
  intro s
  refine ⟨phase_code_inj (q := .idle), phase_code_inj (q := .tx), phase_code_inj (q := .rx),
    status_code_inj (q := .none), status_code_inj (q := .ok), status_code_inj (q := .invalidArgument),
    status_code_inj (q := .malformedResponse), status_code_inj (q := .transportError),
    hostRead_busy s, hostRead_cmdReady s, hostRead_done s, fun op arg => ?_⟩
  rw [hostRead_cmdReady]
  simp [enabled]

end Sys2Proof.Machine

/-! SUPPORT. The two-run argument for R32 V7: states with the same work in hand keep it and send the same bytes. -/

namespace Sys2Proof.Machine

/-! ### Every operation on the registers keeps the same work -/

theorem SameWork.set_pending {s t : State} (h : SameWork s t) (pending : List Event) :
    SameWork { s with pending := pending } { t with pending := pending } :=
  ⟨h.phase, rfl, h.status, h.co2Valid, h.co2, h.sending, h.receiving⟩

/-- Idle states have no frame and no response in hand. -/
theorem sameWork_of_idle {s t : State} (hs : s.phase = .idle) (ht : t.phase = .idle)
    (hpending : s.pending = t.pending) (hstatus : s.status = t.status) (hvalid : s.co2Valid = t.co2Valid)
    (hco2 : s.co2Valid = true → s.co2 = t.co2) : SameWork s t where
  phase := hs.trans ht.symm
  pending := hpending
  status := hstatus
  co2Valid := hvalid
  co2 := hco2
  sending h := by simp [hs] at h
  receiving h := absurd hs h

theorem sameWork_raise {s t : State} (h : SameWork s t) (e : ErrorKind) : SameWork (raise e s) (raise e t) :=
  sameWork_of_idle rfl rfl h.pending rfl h.co2Valid h.co2

theorem sameWork_endOk {s t : State} (h : SameWork s t) : SameWork (endOk s) (endOk t) :=
  sameWork_of_idle rfl rfl h.pending rfl h.co2Valid h.co2

theorem sameWork_acceptReading {s t : State} (h : SameWork s t) (v : Word16) :
    SameWork (acceptReading v s) (acceptReading v t) :=
  sameWork_of_idle rfl rfl h.pending rfl rfl fun _ => rfl

/-- Reset leaves no work, so its free values may differ. -/
theorem sameWork_resetRegisters {s t : State} (h : SameWork s t) :
    SameWork (resetRegisters s) (resetRegisters t) :=
  sameWork_of_idle rfl rfl h.pending rfl rfl nofun

theorem sameWork_dropReading {s t : State} (h : SameWork s t) : SameWork (dropReading s) (dropReading t) :=
  ⟨h.phase, h.pending, h.status, rfl, nofun, h.sending, h.receiving⟩

/-- An accepted command writes all that is in hand; of the old response no byte is left (R161). -/
theorem sameWork_acceptCommand {s t : State} (h : SameWork s t) (o : Op) (f : Frame) :
    SameWork (acceptCommand o f s) (acceptCommand o f t) where
  phase := rfl
  pending := h.pending
  status := rfl
  co2Valid := h.co2Valid
  co2 := h.co2
  sending _ := ⟨rfl, rfl, rfl⟩
  receiving _ := ⟨rfl, by simp [received]⟩

theorem sameWork_sendByte {s t : State} (h : SameWork s t) (hp : s.phase = .tx) (hs : s.txi.val < 9)
    (ht : t.txi.val < 9) : SameWork (sendByte s hs) (sendByte t ht) := by
  obtain ⟨hop, hf, hi⟩ := h.sending hp
  exact
    { phase := h.phase
      pending := h.pending
      status := h.status
      co2Valid := h.co2Valid
      co2 := h.co2
      sending := fun _ => ⟨hop, hf, by simp [hi]⟩
      receiving := h.receiving }

theorem sameWork_enterRx {s t : State} (h : SameWork s t) (hp : s.phase ≠ .idle) :
    SameWork (enterRx s) (enterRx t) where
  phase := rfl
  pending := h.pending
  status := h.status
  co2Valid := h.co2Valid
  co2 := h.co2
  sending := nofun
  receiving _ := h.receiving hp

theorem sameWork_storeByte {s t : State} (h : SameWork s t) (b : Byte) (hp : s.phase = .rx)
    (hs : s.rxn.val < 9) (ht : t.rxn.val < 9) : SameWork (storeByte b s hs) (storeByte b t ht) := by
  obtain ⟨hn, hr⟩ := h.receiving (by simp [hp])
  exact
    { phase := h.phase
      pending := h.pending
      status := h.status
      co2Valid := h.co2Valid
      co2 := h.co2
      sending := fun htx => by simp [hp] at htx
      receiving := fun _ => ⟨by simp [hn], by rw [received_storeByte, received_storeByte, hr]⟩ }

/-! ### Every event has the same effect in both runs -/

/-- The outcome `o`, met in state `t`, is what the step from `s` to `s'` is there: it leaves the same work and puts
the same bytes on the TX stream. -/
def SameEffect (s s' t : State) (o : Host.Outcome State Fault Refusal) : Prop :=
  ∃ (t' : State) (sent : List Byte), o = .next t' ∧ SameWork s' t' ∧
    s'.txStream = s.txStream ++ sent ∧ t'.txStream = t.txStream ++ sent

/-- A step of both runs that sends nothing. -/
theorem sameEffect_of_silent {s s' t t' : State} {o : Host.Outcome State Fault Refusal} (ho : o = .next t')
    (hw : SameWork s' t') (hs : s'.txStream = s.txStream) (ht : t'.txStream = t.txStream) :
    SameEffect s s' t o :=
  ⟨t', [], ho, hw, by simp [hs], by simp [ht]⟩

theorem sameEffect_cmdIssue {s t s' : State} {op : BitVec 3} {arg : Int} (h : SameWork s t)
    (hp : s.phase = .idle) (hs : cmdIssue op arg s = .next s') : SameEffect s s' t (cmdIssue op arg t) := by
  have hpt : t.phase = .idle := h.phase.symm.trans hp
  have hw := sameWork_dropReading h
  rcases cmdIssue_cases op arg hp with ⟨hb, hc⟩ | ⟨o, f, rfl, hb, hc⟩
  · obtain rfl := Host.Outcome.next.inj (hs.symm.trans hc)
    exact sameEffect_of_silent (cmdIssue_of_build_error hpt hb) (sameWork_raise hw _) rfl rfl
  · obtain rfl := Host.Outcome.next.inj (hs.symm.trans hc)
    exact sameEffect_of_silent (cmdIssue_of_build_ok hpt hb) (sameWork_acceptCommand hw o f) rfl rfl

/-- In phase `TX` both runs hand over the same byte of the same frame. -/
theorem sameEffect_txByte {s t s' : State} (h : SameWork s t) (hp : s.phase = .tx)
    (hs : txByte s = .next s') : SameEffect s s' t (txByte t) := by
  obtain ⟨hop, hf, hi⟩ := h.sending hp
  obtain ⟨hn, hc⟩ := txByte_cases hs
  have hnt : t.txi.val < 9 := hi ▸ hn
  have hw := sameWork_sendByte h hp hn hnt
  have hbyte : t.txf[t.txi.val] = s.txf[s.txi.val] := by simp [hf, hi]
  have hsent : (sendByte t hnt).txStream = t.txStream ++ [s.txf[s.txi.val]] := by
    rw [sendByte_txStream, hbyte]
  rcases hc with ⟨h8, rfl⟩ | ⟨h8, hr, rfl⟩ | ⟨h8, hr, rfl⟩
  · exact ⟨_, _, txByte_of_lt_eight hnt (hi ▸ h8), hw, rfl, hsent⟩
  · exact ⟨_, _, txByte_ninth_read hnt (hi ▸ h8) (hop ▸ hr), sameWork_enterRx hw (by simp [hp]), rfl, hsent⟩
  · exact ⟨_, _, txByte_ninth_other hnt (hi ▸ h8) (hop ▸ hr), sameWork_endOk hw, rfl, hsent⟩

/-- `Finish` looks at the received bytes alone, which are the same in both runs. -/
theorem sameEffect_finish {s t s' : State} (h : SameWork s t) (hp : s.phase = .rx)
    (hs : finish s = .next s') : SameEffect s s' t (finish t) := by
  obtain ⟨-, hr⟩ := h.receiving (by simp [hp])
  have hft := finish_eq (h.phase.symm.trans hp)
  rw [← hr] at hft
  rcases finish_cases hp hs with ⟨v, hv, rfl⟩ | ⟨hv, rfl⟩
  · rw [hv] at hft
    exact sameEffect_of_silent hft (sameWork_acceptReading h v) rfl rfl
  · rw [hv] at hft
    exact sameEffect_of_silent hft (sameWork_raise h _) rfl rfl

theorem sameEffect_rxByte {s t s' : State} {b : Byte} (h : SameWork s t) (hp : s.phase = .rx)
    (hs : rxByte b s = .next s') : SameEffect s s' t (rxByte b t) := by
  obtain ⟨hrxn, -⟩ := h.receiving (by simp [hp])
  obtain ⟨hn, hc⟩ := rxByte_cases hp hs
  have hnt : t.rxn.val < 9 := hrxn ▸ hn
  have hw := sameWork_storeByte h b hp hn hnt
  rcases hc with ⟨h8, rfl⟩ | ⟨h8, -⟩
  · exact sameEffect_of_silent (rxByte_of_lt_eight b hnt (hrxn ▸ h8)) hw rfl rfl
  · rw [rxByte_ninth b hn h8] at hs
    rw [rxByte_ninth b hnt (hrxn ▸ h8)]
    exact sameEffect_finish (s := storeByte b s hn) hw hp hs

/-- Every enabled event has the same effect from two states with the same work in hand. -/
theorem sameEffect_perform {s t s' : State} {e : Event} (h : SameWork s t) (he : enabled s.phase e = true)
    (hs : perform e s = .next s') : SameEffect s s' t (perform e t) := by
  cases e with
  | cmdIssue op arg => exact sameEffect_cmdIssue h (by simpa [enabled] using he) hs
  | txByte => exact sameEffect_txByte h (by simpa [enabled] using he) hs
  | txFail =>
    obtain rfl := Host.Outcome.next.inj hs
    exact sameEffect_of_silent rfl (sameWork_raise h _) rfl rfl
  | rxByte b => exact sameEffect_rxByte h (by simpa [enabled] using he) hs
  | rxTimeout => exact sameEffect_finish h (by simpa [enabled] using he) hs
  | rxFail =>
    obtain rfl := Host.Outcome.next.inj hs
    exact sameEffect_of_silent rfl (sameWork_raise h _) rfl rfl
  | reset =>
    obtain rfl := Host.Outcome.next.inj hs
    exact sameEffect_of_silent rfl (sameWork_resetRegisters h) rfl rfl

/-- Settles O46: phase and pending events being equal, both runs take the same event, and it has the same effect. -/
theorem noValueFromEarlierOperations : Obligations.NoValueFromEarlierOperations := by
  intro s t s' h hs
  rcases step_cases hs with ⟨hnone, rfl⟩ | ⟨e, rest, htake, he, hp⟩
  · rw [h.phase, h.pending] at hnone
    exact sameEffect_of_silent (step_of_takeEnabled_none hnone) h rfl rfl
  · rw [h.phase, h.pending] at htake
    rw [step_of_takeEnabled htake]
    exact sameEffect_perform (s := { s with pending := rest }) (h.set_pending rest) he hp

end Sys2Proof.Machine

/-! SUPPORT. The word the host places is the one that runs, the TX stream takes the next frame byte alone, a result
is held, and a reading is seen at both widths. -/

namespace Sys2Proof.Machine

/-! ### The placed word -/

/-- The command word that presents an instruction decodes to it, for every row (R83). -/
theorem decodePort_of_portOf {i : Instr} {op : BitVec 3} {arg : Int} (h : portOf i = some (op, arg)) :
    decodePort op arg = .ok i :=
  match i with
  | .read => Laws.PortWord.read _ _ h
  | .abcOn => Laws.PortWord.abcOn _ _ h
  | .abcOff => Laws.PortWord.abcOff _ _ h
  | .zero => Laws.PortWord.zero _ _ h
  | .span v => Laws.PortWord.span v _ _ h
  | .range5000 => Laws.PortWord.range5000 _ _ h
  | .range2000 => Laws.PortWord.range2000 _ _ h
  | .respRead hi lo ignored => Laws.PortWord.respRead hi lo ignored _ _ h

/-- What a command frame decodes to is presented at the port (R83, R85). -/
theorem portOf_ne_none_of_decodeCommand {bytes : List Byte} {i : Instr} (h : decodeCommand bytes = .ok i) :
    portOf i ≠ none := by
  obtain ⟨cmd, d0, d1, d2, d3, d4, cs, -, hp⟩ := decodeCommand_ok h
  rcases decodePayload_ok hp with ⟨-, -, -, rfl⟩ | ⟨-, -, -, -, rfl⟩ | ⟨-, -, -, rfl⟩ | ⟨-, -, -, rfl⟩ |
    ⟨-, -, -, rfl⟩ | ⟨-, -, -, rfl⟩ | ⟨-, -, -, rfl⟩ <;> simp [portOf]

/-- What decodes to no command is read by the response decoder. -/
theorem decodeResponse_of_decode {bytes : List Byte} {i : Instr} (h : decode bytes = .ok i)
    (hi : portOf i = none) : decodeResponse bytes = .ok i := by
  unfold decode at h
  split at h
  · split at h
    · exact absurd hi (portOf_ne_none_of_decodeCommand h)
    · exact h
  · cases h

/-- Only the last byte is ever filled in. -/
theorem completeChecksum_getElem_one (f : Frame) : (completeChecksum f)[1] = f[1] := by
  unfold completeChecksum
  split
  · exact Vector.getElem_set_ne (by decide) (by decide) (by decide)
  · rfl

/-- In a response no checksum is filled in: it does not have the address byte of a `SPAN` frame (R51, R82). -/
theorem completeChecksum_of_response {f : Frame} {i : Instr}
    (h : decodeResponse (completeChecksum f).toList = .ok i) : completeChecksum f = f := by
  obtain ⟨hi, lo, ignored, -, hr, -, -⟩ := decodeResponse_ok h
  have h1 : (completeChecksum f)[1] = 0x86 := by
    have : (completeChecksum f).toList[1]? = some 0x86 := by rw [hr]; rfl
    simpa using this
  rw [completeChecksum_getElem_one] at h1
  exact if_neg fun hspan => by simp [h1] at hspan

theorem decode_of_decodeTableWord {nbits w : Nat} {i : Instr} (h : decodeTableWord nbits w = some i) :
    decode (completeChecksum (tableFrame nbits w)).toList = .ok i := by
  unfold decodeTableWord at h
  split at h
  · cases h
  · split at h
    · rename_i hd
      rw [hd, Option.some.inj h]
    · cases h

/-- A table word that decodes to no command is a response as it stands. -/
theorem decodeResponse_tableFrame {nbits w : Nat} {i : Instr} (h : decodeTableWord nbits w = some i)
    (hi : portOf i = none) : decodeResponse (tableFrame nbits w).toList = .ok i := by
  have hr := decodeResponse_of_decode (decode_of_decodeTableWord h) hi
  rwa [completeChecksum_of_response hr] at hr

theorem placeWord_command {nbits w : Nat} {i : Instr} {op : BitVec 3} {arg : Int} (s : State)
    (h : decodeTableWord nbits w = some i) (hi : portOf i = some (op, arg)) :
    placeWord nbits w s = placeCommand op arg s := by
  simp [placeWord, h, hi]

theorem placeWord_response {nbits w : Nat} {i : Instr} (s : State)
    (h : decodeTableWord nbits w = some i) (hi : portOf i = none) :
    placeWord nbits w s = placeResponse (tableFrame nbits w) s := by
  simp [placeWord, h, hi]

/-- A placed command word is the one that is issued. -/
theorem step_placeCommand {op : BitVec 3} {arg : Int} {i : Instr} (s : State) (h : decodePort op arg = .ok i) :
    step (placeCommand op arg s) = exec i { s with phase := .idle } := by
  have he : enabled (placeCommand op arg s).phase (.cmdIssue op arg) = true := by simp [placeCommand, enabled]
  rw [step_head (rest := s.pending) rfl he]
  simp [perform, cmdIssue, h, placeCommand]

/-- The state in which a placed response is parsed: its ninth byte has been taken. -/
def afterPlacedResponse (f : Frame) (s : State) : State :=
  storeByte f[8] { placeResponse f s with pending := s.pending } (by decide : 8 < 9)

/-- The nine bytes received are the nine bytes placed. -/
theorem received_afterPlacedResponse (f : Frame) (s : State) : received (afterPlacedResponse f s) = f.toList := by
  have hrxb : (afterPlacedResponse f s).rxb = f := by
    ext k hk
    interval_cases k <;> rfl
  rw [received, hrxb]
  exact List.take_of_length_le (by simp [afterPlacedResponse, placeResponse])

/-- After a placed response the next step delivers its last byte and finishes (R166). -/
theorem step_placeResponse (f : Frame) (s : State) :
    step (placeResponse f s) = finish (afterPlacedResponse f s) := by
  rw [step_head (e := .rxByte f[8]) (rest := s.pending) rfl rfl]
  exact rxByte_ninth (s := { placeResponse f s with pending := s.pending }) f[8] (by decide : 8 < 9) rfl

theorem finish_of_decodeResponse {s : State} {i : Instr} (h : decodeResponse (received s) = .ok i) :
    finish s = exec i s := by
  simp [finish, h]

/-- Settles O33: a command is first on the port of an idle block, and of a response the last byte is first in line. -/
theorem stepRunsPlacedWord : Obligations.StepRunsPlacedWord := by
  intro s nbits w i h
  constructor
  · intro hi
    obtain ⟨⟨op, arg⟩, hport⟩ := Option.ne_none_iff_exists'.mp hi
    rw [State.withFetchWord, placeWord_command s h hport]
    exact step_placeCommand s (decodePort_of_portOf hport)
  · intro hi
    have hr : decodeResponse (received (afterPlacedResponse (tableFrame nbits w) s)) = .ok i := by
      rw [received_afterPlacedResponse]
      exact decodeResponse_tableFrame h hi
    refine ⟨afterPlacedResponse (tableFrame nbits w) s, rfl, rfl, rfl, rfl, hr, ?_⟩
    rw [State.withFetchWord, placeWord_response s h hi, step_placeResponse]
    exact finish_of_decodeResponse hr

/-! ### What is sent and what is held -/

/-- The index of the byte that `sendByte` hands over is the count before it, one less than the count after. -/
theorem sendByte_next (s : State) (hn : s.txi.val < 9) :
    ∃ n : Fin 9, s.txi = n.castSucc ∧ (sendByte s hn).txi = n.succ ∧
      (sendByte s hn).txStream = s.txStream ++ [s.txf[n]] :=
  ⟨⟨s.txi.val, hn⟩, rfl, rfl, rfl⟩

/-- Settles O38: of all events `TxByte` alone puts a byte on the stream, in phase `TX`. -/
theorem onlyTheNextByteIsSent : Obligations.OnlyTheNextByteIsSent := by
  intro s t ht hne
  rcases step_cases ht with ⟨-, rfl⟩ | ⟨e, rest, htake, he, hp⟩
  · exact absurd rfl hne
  · obtain ⟨-, -, -, -, -, -, -, hstream⟩ := registersHaveTheirWriters s t e rest htake ht
    obtain rfl := hstream hne
    obtain ⟨hn, hc⟩ := txByte_cases hp
    refine ⟨by simpa [enabled] using he, ?_⟩
    have hsent := sendByte_next { s with pending := rest } hn
    rcases hc with ⟨-, rfl⟩ | ⟨-, -, rfl⟩ | ⟨-, -, rfl⟩
    · exact hsent
    · exact hsent
    · exact hsent

/-- In `IDLE` only a command and Reset are enabled (R160). -/
theorem enabled_idle_eq_false {e : Event} (hc : e.isCommand = false) (hr : e ≠ .reset) :
    enabled .idle e = false := by
  cases e with
  | cmdIssue op arg => simp [Event.isCommand] at hc
  | reset => exact absurd rfl hr
  | txByte | txFail | rxByte b | rxTimeout | rxFail => rfl

/-- An event that starts and ends outside `IDLE` leaves the result: it sends or stores a byte that is not the last. -/
theorem perform_keeps_result {s t : State} {e : Event} (he : enabled s.phase e = true)
    (h : perform e s = .next t) (hs : s.phase ≠ .idle) (ht : t.phase ≠ .idle) :
    t.status = s.status ∧ t.co2Valid = s.co2Valid ∧ t.co2 = s.co2 := by
  rcases perform_cases he h with ⟨hp, -⟩ | ⟨-, -, hn, hc⟩ | ⟨-, -, rfl⟩ | ⟨-, b, -, hn, hc⟩ | ⟨-, -, hc⟩ |
    ⟨-, -, rfl⟩ | ⟨-, rfl⟩
  · -- CmdIssue
    exact absurd hp hs
  · -- TxByte
    rcases hc with ⟨-, rfl⟩ | ⟨-, -, rfl⟩ | ⟨-, -, rfl⟩
    · exact ⟨rfl, rfl, rfl⟩
    · exact ⟨rfl, rfl, rfl⟩
    · exact absurd rfl ht
  · -- TxFail
    exact absurd rfl ht
  · -- RxByte
    rcases hc with ⟨-, rfl⟩ | ⟨-, ⟨v, -, rfl⟩ | ⟨-, rfl⟩⟩
    · exact ⟨rfl, rfl, rfl⟩
    · exact absurd rfl ht
    · exact absurd rfl ht
  · -- RxTimeout
    rcases hc with ⟨v, -, rfl⟩ | ⟨-, rfl⟩
    · exact absurd rfl ht
    · exact absurd rfl ht
  · -- RxFail
    exact absurd rfl ht
  · -- Reset
    exact absurd rfl ht

/-- Settles O40: an idle block takes nothing but a command or Reset, and an event that does not end the operation
leaves the result. -/
theorem resultHeldUntilNextCommand : Obligations.ResultHeldUntilNextCommand := by
  intro s t ht
  constructor
  · intro hp hpending
    have hnone : takeEnabled s.phase s.pending = none := by
      rw [hp, takeEnabled_none_iff]
      intro x hx
      obtain ⟨hc, hr⟩ := hpending x hx
      exact enabled_idle_eq_false hc hr
    exact Host.Outcome.next.inj (ht.symm.trans (step_of_takeEnabled_none hnone))
  · intro hs hne
    rcases step_cases ht with ⟨-, rfl⟩ | ⟨e, rest, -, he, hp⟩
    · exact ⟨rfl, rfl, rfl⟩
    · exact perform_keeps_result (s := { s with pending := rest }) he hp hs hne

/-! ### The visible reading -/

theorem hostRead_co2Valid (s : State) : hostRead .co2Valid s = 1 ↔ s.co2Valid = true := by
  cases h : s.co2Valid <;> simp [hostRead, h]

/-- Settles O53: V6 gives the value and the phase, and the host's reads and the typed result follow from it. -/
theorem readingVisibleAtBothWidths : Obligations.ReadingVisibleAtBothWidths := by
  intro s h hread
  have hv := (hostRead_co2Valid s).mp hread
  obtain ⟨hok, hidle, -, -, -, -, hbytes⟩ := h.validReading hv
  refine ⟨?_, ?_, ?_, ?_⟩
  · simpa [hostRead, hv] using hbytes
  · simp [State.result, hok, hv]
  · simp [hostRead_done, hok]
  · simp [hostRead, State.busy, hidle]

end Sys2Proof.Machine

/-! SUPPORT. The encodings: decoder and encoder are inverse to each other, and what a command word presents. -/

namespace Sys2Proof

open Machine

/-! ### Which instructions have an encoding -/

theorem wellFormed_span_iff {v : Int} : (Instr.span v).wellFormed = true ↔ 0 ≤ v ∧ v ≤ 65535 := by
  simp [Instr.wellFormed, Instr.illFormed]

theorem wellFormed_respRead_iff {hi lo : Byte} {ignored : List Byte} :
    (Instr.respRead hi lo ignored).wellFormed = true ↔ ignored.length ≤ 5 := by
  simp [Instr.wellFormed, Instr.illFormed]

/-! ### The two bytes of a span (R84, R122) -/

/-- The quotient and the remainder of a span in range are bytes, and give the span back. -/
theorem span_of_bytes {v : Int} (h0 : 0 ≤ v) (h1 : v ≤ 65535) :
    ((BitVec.ofInt 8 (v / 256)).toNat * 256 + (BitVec.ofInt 8 (v % 256)).toNat : Int) = v := by
  simp only [BitVec.toNat_ofInt]
  omega

/-- The quotient of a span made of two bytes is its high byte. -/
theorem highByte_of_span (hi lo : Byte) : BitVec.ofInt 8 ((hi.toNat * 256 + lo.toNat : Int) / 256) = hi := by
  have := hi.isLt
  have := lo.isLt
  apply BitVec.eq_of_toNat_eq
  simp only [BitVec.toNat_ofInt]
  omega

/-- The remainder of a span made of two bytes is its low byte. -/
theorem lowByte_of_span (hi lo : Byte) : BitVec.ofInt 8 ((hi.toNat * 256 + lo.toNat : Int) % 256) = lo := by
  have := lo.isLt
  apply BitVec.eq_of_toNat_eq
  simp only [BitVec.toNat_ofInt]
  omega

/-! ### The decoder on frames and responses -/

/-- A frame of row 5 of R85 decodes, whatever its two operand bytes are. -/
theorem decode_span (hi lo : Byte) :
    decode [0xFF, 0x01, 0x88, hi, lo, 0x00, 0x00, 0x00, spanChecksum hi lo] =
      .ok (.span (hi.toNat * 256 + lo.toNat)) := by
  simp [decode, decodeCommand, decodePayload, expectRow]

/-- `FF 86`, two value bytes and at most five more decode as a response (R82). -/
theorem decode_response {hi lo : Byte} {ignored : List Byte} (h : ignored.length ≤ 5) :
    decode (0xFF :: 0x86 :: hi :: lo :: ignored) = .ok (.respRead hi lo ignored) := by
  simp [decode, decodeResponse, h]

/-- What decodes was read by the command decoder or by the response decoder. -/
theorem decode_cases {bytes : List Byte} {i : Instr} (h : decode bytes = .ok i) :
    decodeCommand bytes = .ok i ∨ decodeResponse bytes = .ok i := by
  unfold decode at h
  split at h
  · split at h
    · exact .inl h
    · exact .inr h
  · cases h

/-! ### Round trips -/

theorem decode_encode {i : Instr} (h : i.wellFormed = true) : decode (encode i) = .ok i :=
  match i with
  | .read | .abcOn | .abcOff | .zero | .range5000 | .range2000 => rfl
  | .span v => by
    obtain ⟨h0, h1⟩ := wellFormed_span_iff.mp h
    rw [encode, decode_span, span_of_bytes h0 h1]
  | .respRead _ _ _ => decode_response (wellFormed_respRead_iff.mp h)

/-- A span made of two bytes is well formed, and the bytes are those of its frame. -/
theorem encode_span_of_bytes (hi lo : Byte) :
    (Instr.span (hi.toNat * 256 + lo.toNat)).wellFormed = true ∧
      encode (.span (hi.toNat * 256 + lo.toNat)) =
        [0xFF, 0x01, 0x88, hi, lo, 0x00, 0x00, 0x00, spanChecksum hi lo] := by
  constructor
  · have := hi.isLt
    have := lo.isLt
    rw [wellFormed_span_iff]
    omega
  · rw [encode, highByte_of_span, lowByte_of_span]

theorem encode_of_decodeCommand {bytes : List Byte} {i : Instr} (h : decodeCommand bytes = .ok i) :
    i.wellFormed = true ∧ encode i = bytes := by
  obtain ⟨cmd, d0, d1, d2, d3, d4, cs, rfl, hp⟩ := decodeCommand_ok h
  rcases decodePayload_ok hp with ⟨rfl, hd, rfl, rfl⟩ | ⟨rfl, rfl, hd, rfl, rfl⟩ | ⟨rfl, hd, rfl, rfl⟩ |
    ⟨rfl, hd, rfl, rfl⟩ | ⟨rfl, hd, rfl, rfl⟩ | ⟨rfl, hd, rfl, rfl⟩ | ⟨rfl, hd, rfl, rfl⟩ <;> cases hd
  case inr.inr.inr.inr.inl => exact encode_span_of_bytes d0 d1
  all_goals exact ⟨rfl, rfl⟩

theorem encode_of_decode {bytes : List Byte} {i : Instr} (h : decode bytes = .ok i) :
    i.wellFormed = true ∧ encode i = bytes := by
  rcases decode_cases h with hc | hr
  · exact encode_of_decodeCommand hc
  · obtain ⟨hi, lo, ignored, rfl, rfl, hl, -⟩ := decodeResponse_ok hr
    exact ⟨wellFormed_respRead_iff.mpr hl, rfl⟩

/-- The decoder reads an instruction from exactly the bytes of its encoding. -/
theorem decode_eq_ok_iff {bytes : List Byte} {i : Instr} :
    decode bytes = .ok i ↔ i.wellFormed = true ∧ encode i = bytes :=
  ⟨encode_of_decode, fun ⟨hw, he⟩ => he ▸ decode_encode hw⟩

/-- Settles O1: the literal rows compute, a span comes back from its two bytes, a response from its length. -/
theorem decodeOfEncode : Obligations.DecodeOfEncode :=
  fun _ h => decode_encode h

/-- Settles O2: the decoder accepts only the rows of R85 and R82, each with its own bytes. -/
theorem encodeOfDecode : Obligations.EncodeOfDecode :=
  fun _ _ h => encode_of_decode h

/-- Settles O5: each word is the encoding of a well-formed instruction. -/
theorem writtenOutFramesDecode : Obligations.WrittenOutFramesDecode :=
  ⟨decode_encode (i := .read) rfl, decode_encode (i := .abcOn) rfl, decode_encode (i := .zero) rfl,
    decode_encode (i := .span 4660) rfl, decode_encode (i := .range2000) rfl,
    decode_encode (i := .respRead 0x01 0xA0 [0xDE, 0xAD, 0xBE, 0xEF, 0x00]) rfl⟩

/-! ### The command port -/

/-- The codes 5 to 7 name no operation (R86). -/
theorem ofCode_eq_none {op : BitVec 3} (h : 5 ≤ op.toNat) : Op.ofCode op = none := by
  decide +revert

/-- Settles O6, code by code. -/
theorem portWordsPresentTheirRows : Obligations.PortWordsPresentTheirRows := by
  intro arg
  refine ⟨rfl, rfl, ?abc, rfl, rfl, rfl, rfl, ?range, ?reserved⟩
  case abc =>
    intro h
    simp [decodePort, Op.ofCode, h]
  case range =>
    intro h5 h2
    simp [decodePort, Op.ofCode, h5, h2]
  case reserved =>
    intro op h
    simp [decodePort, ofCode_eq_none h]

end Sys2Proof

/-! SUPPORT. Frames as 72-bit words (R80): which bit of the word is which bit of which byte, and that neither
direction loses any. -/

namespace Sys2Proof

/-- The low eight bits of a word that ends with a byte are the byte. -/
theorem getLsbD_append_byte_of_lt {n j : Nat} (x : BitVec n) (b : Byte) (h : j < 8) :
    (x ++ b).getLsbD j = b.getLsbD j := by
  rw [BitVec.getLsbD_append, if_pos h]

/-- The other bits of a word that ends with a byte stand eight places higher than in front of it. -/
theorem getLsbD_append_byte_of_ge {n j : Nat} (x : BitVec n) (b : Byte) (h : 8 ≤ j) :
    (x ++ b).getLsbD j = x.getLsbD (j - 8) := by
  rw [BitVec.getLsbD_append, if_neg (by omega)]

/-- From the frame to the word: the bytes behind offset `i` are passed over one by one. -/
theorem getLsbD_frameBits (f : Frame) (i : Fin 9) (k : Fin 8) :
    (frameBits f).getLsbD (64 - 8 * i.val + k.val) = f[i].getLsbD k.val := by
  have hk := k.isLt
  change (f[0] ++ f[1] ++ f[2] ++ f[3] ++ f[4] ++ f[5] ++ f[6] ++ f[7] ++ f[8]).getLsbD _ = _
  fin_cases i
  all_goals
    simp (disch := omega) only [getLsbD_append_byte_of_ge, getLsbD_append_byte_of_lt, Nat.reduceMul, Nat.reduceSub]
    exact congrArg (BitVec.getLsbD _) (by omega)

/-- The byte at offset `i` of the frame of a word. -/
theorem frameOfBits_getElem (w : BitVec 72) (i : Fin 9) :
    (frameOfBits w)[i] = w.extractLsb' (64 - 8 * i.val) 8 := by
  fin_cases i <;> rfl

/-- From the word to the frame: the same places. -/
theorem getLsbD_frameOfBits (w : BitVec 72) (i : Fin 9) (k : Fin 8) :
    (frameOfBits w)[i].getLsbD k.val = w.getLsbD (64 - 8 * i.val + k.val) := by
  rw [frameOfBits_getElem, BitVec.getLsbD_extractLsb', decide_eq_true k.isLt, Bool.true_and]

theorem frame_ext {f g : Frame} (h : ∀ i : Fin 9, f[i] = g[i]) : f = g :=
  Vector.ext fun i hi => h ⟨i, hi⟩

theorem frameOfBits_frameBits (f : Frame) : frameOfBits (frameBits f) = f :=
  frame_ext fun i => BitVec.eq_of_getLsbD_eq fun k hk =>
    (getLsbD_frameOfBits _ i ⟨k, hk⟩).trans (getLsbD_frameBits f i ⟨k, hk⟩)

/-- Words with the same bytes are the same word: every bit stands in one of the nine bytes. -/
theorem frameOfBits_inj {v w : BitVec 72} (h : frameOfBits v = frameOfBits w) : v = w := by
  apply BitVec.eq_of_getLsbD_eq
  intro j hj
  have hplace : j = 64 - 8 * (8 - j / 8) + j % 8 := by omega
  have hv := getLsbD_frameOfBits v ⟨8 - j / 8, by omega⟩ ⟨j % 8, by omega⟩
  have hw := getLsbD_frameOfBits w ⟨8 - j / 8, by omega⟩ ⟨j % 8, by omega⟩
  rw [h, hw] at hv
  rw [hplace]
  exact hv.symm

/-- Settles O4: both conversions put bit `k` of the byte at offset `i` at the same place of the word. -/
theorem frameBitPlaces : Obligations.FrameBitPlaces :=
  fun f => ⟨frameOfBits_frameBits f, getLsbD_frameBits f⟩

end Sys2Proof

/-! SUPPORT. A 72-bit word is of a row of the opcode table exactly when it decodes to that row. The bytes a row's
mask fixes are compared in frames; there the rows and the encodings are compared. -/

namespace Sys2Proof

/-! ### A row of the table as the bytes it fixes -/

/-- The offsets at which a row's mask keeps the whole byte. -/
def TableRow.fixed (r : TableRow) : List (Fin 9) :=
  (List.finRange 9).filter fun j => (frameOfBits r.mask)[j] = 0xFF

/-- The frame has the row's bytes wherever the row fixes one. -/
def OfRow (f : Frame) (r : TableRow) : Prop :=
  ∀ j ∈ r.fixed, f[j] = (frameOfBits r.pattern)[j]

/-- Every mask of the table keeps whole bytes, and the match is zero elsewhere. -/
theorem mask_byte : ∀ r ∈ opcodeTable, ∀ j : Fin 9,
    j ∈ r.fixed ∧ (frameOfBits r.mask)[j] = 0xFF ∨
    j ∉ r.fixed ∧ (frameOfBits r.mask)[j] = 0 ∧ (frameOfBits r.pattern)[j] = 0 := by decide

/-- A word masked is masked byte by byte. -/
theorem frameOfBits_and (v w : BitVec 72) (j : Fin 9) :
    (frameOfBits (v &&& w))[j] = (frameOfBits v)[j] &&& (frameOfBits w)[j] := by
  simp only [frameOfBits_getElem, BitVec.extractLsb'_and]

/-- A word is of a row by mask and match exactly when its bytes are the row's where the row fixes them. -/
theorem and_mask_eq_iff {r : TableRow} (hr : r ∈ opcodeTable) (w : BitVec 72) :
    w &&& r.mask = r.pattern ↔ OfRow (frameOfBits w) r := by
  have hbyte : ∀ j : Fin 9, (frameOfBits (w &&& r.mask))[j] = (frameOfBits r.pattern)[j] ↔
      (j ∈ r.fixed → (frameOfBits w)[j] = (frameOfBits r.pattern)[j]) := by
    intro j
    rw [frameOfBits_and]
    rcases mask_byte r hr j with ⟨hj, hm⟩ | ⟨hj, hm, hp⟩
    · have hkeep : (frameOfBits w)[j] &&& 0xFF = (frameOfBits w)[j] := BitVec.and_allOnes
      simp only [hm, hkeep, hj, true_imp_iff]
    · have hclear : (frameOfBits w)[j] &&& 0 = 0 := BitVec.and_zero
      simp only [hm, hp, hj, hclear, false_imp_iff]
  calc w &&& r.mask = r.pattern
    _ ↔ frameOfBits (w &&& r.mask) = frameOfBits r.pattern := ⟨congrArg _, frameOfBits_inj⟩
    _ ↔ ∀ j : Fin 9, (frameOfBits (w &&& r.mask))[j] = (frameOfBits r.pattern)[j] :=
        ⟨fun h j => by rw [h], frame_ext⟩
    _ ↔ OfRow (frameOfBits w) r := forall_congr' hbyte

/-! ### The filled-in checksum -/

/-- Only the last byte is ever filled in. -/
theorem completeChecksum_getElem (f : Frame) (j : Fin 9) (hj : j ≠ 8) : (completeChecksum f)[j] = f[j] := by
  unfold completeChecksum
  split
  · exact Vector.getElem_set_ne (by decide) j.isLt (fun h => hj (Fin.ext h.symm))
  · rfl

/-- Of a frame headed like a `SPAN` frame the last byte is the checksum of that row. -/
theorem completeChecksum_last {f : Frame} (h0 : (completeChecksum f)[(0 : Fin 9)] = 0xFF)
    (h1 : (completeChecksum f)[(1 : Fin 9)] = 0x01) (h2 : (completeChecksum f)[(2 : Fin 9)] = 0x88) :
    (completeChecksum f)[(8 : Fin 9)] =
      spanChecksum (completeChecksum f)[(3 : Fin 9)] (completeChecksum f)[(4 : Fin 9)] := by
  rw [completeChecksum_getElem f _ (by decide)] at h0 h1 h2
  rw [completeChecksum_getElem f 3 (by decide), completeChecksum_getElem f 4 (by decide)]
  unfold completeChecksum
  rw [if_pos ⟨h0, h1, h2⟩]
  exact Vector.getElem_set_self (by decide)

/-- A row that fixes the last byte fixes a command code other than that of `SPAN`. -/
theorem fixed_last_byte : ∀ r ∈ opcodeTable, 8 ∈ r.fixed →
    2 ∈ r.fixed ∧ (frameOfBits r.pattern)[(2 : Fin 9)] ≠ 0x88 := by decide

/-- Filling in the checksum moves no frame into a row or out of one. -/
theorem ofRow_completeChecksum {r : TableRow} (hr : r ∈ opcodeTable) (f : Frame) :
    OfRow (completeChecksum f) r ↔ OfRow f r := by
  by_cases h8 : 8 ∈ r.fixed
  · obtain ⟨h2, hspan⟩ := fixed_last_byte r hr h8
    have hsame : f[(2 : Fin 9)] = (frameOfBits r.pattern)[(2 : Fin 9)] → completeChecksum f = f := fun h =>
      if_neg fun hhead => hspan (h.symm.trans hhead.2.2)
    constructor
    · intro h
      have hf2 := completeChecksum_getElem f 2 (by decide)
      rwa [hsame (hf2.symm.trans (h 2 h2))] at h
    · intro h
      rwa [hsame (h 2 h2)]
  · refine forall₂_congr fun j hj => ?_
    rw [completeChecksum_getElem f j fun h => h8 (h ▸ hj)]

/-! ### Rows and encodings -/

theorem frame_toList (f : Frame) : f.toList = [f[0], f[1], f[2], f[3], f[4], f[5], f[6], f[7], f[8]] :=
  match f with
  | ⟨⟨[_, _, _, _, _, _, _, _, _]⟩, _⟩ => rfl

/-- A row without operands holds one frame, the literal of R85. -/
theorem ofRow_iff_of_literal {i : Instr} (hfix : i.row.fixed = List.finRange 9)
    (hlit : encode i = (frameOfBits i.row.pattern).toList) (f : Frame) : OfRow f i.row ↔ encode i = f.toList := by
  rw [hlit, Vector.toList_inj, OfRow, hfix]
  exact ⟨fun h => (frame_ext fun j => h j (List.mem_finRange j)).symm, fun h j _ => by rw [h]⟩

theorem span_row_fixed (v : Int) : (Instr.span v).row.fixed = [0, 1, 2, 5, 6, 7] :=
  (by decide : (Instr.span 0).row.fixed = [0, 1, 2, 5, 6, 7])

theorem span_row_pattern (v : Int) : frameOfBits (Instr.span v).row.pattern = #v[0xFF, 0x01, 0x88, 0, 0, 0, 0, 0, 0] :=
  (by decide : frameOfBits (Instr.span 0).row.pattern = #v[0xFF, 0x01, 0x88, 0, 0, 0, 0, 0, 0])

/-- Row 5 fixes all but the two operand bytes and the checksum. -/
theorem ofRow_span_iff {v : Int} {f : Frame} : OfRow f (Instr.span v).row ↔
    f[0] = 0xFF ∧ f[1] = 0x01 ∧ f[2] = 0x88 ∧ f[5] = 0x00 ∧ f[6] = 0x00 ∧ f[7] = 0x00 := by
  simp [OfRow, span_row_fixed, span_row_pattern]

theorem respRead_row_fixed (hi lo : Byte) (ignored : List Byte) : (Instr.respRead hi lo ignored).row.fixed = [0, 1] :=
  (by decide : (Instr.respRead 0 0 []).row.fixed = [0, 1])

theorem respRead_row_pattern (hi lo : Byte) (ignored : List Byte) :
    frameOfBits (Instr.respRead hi lo ignored).row.pattern = #v[0xFF, 0x86, 0, 0, 0, 0, 0, 0, 0] :=
  (by decide : frameOfBits (Instr.respRead 0 0 []).row.pattern = #v[0xFF, 0x86, 0, 0, 0, 0, 0, 0, 0])

/-- The row of the response fixes only its first two bytes. -/
theorem ofRow_respRead_iff {hi lo : Byte} {ignored : List Byte} {f : Frame} :
    OfRow f (Instr.respRead hi lo ignored).row ↔ f[0] = 0xFF ∧ f[1] = 0x86 := by
  simp [OfRow, respRead_row_fixed, respRead_row_pattern]

/-- A frame that an instruction encodes to is of the instruction's row. -/
theorem ofRow_of_encode {i : Instr} {f : Frame} (h : encode i = f.toList) : OfRow f i.row :=
  match i with
  | .read | .abcOn | .abcOff | .zero | .range5000 | .range2000 =>
    (ofRow_iff_of_literal (by decide) (by decide) f).mpr h
  | .span v => by
    simp only [frame_toList, encode, List.cons.injEq] at h
    obtain ⟨h0, h1, h2, -, -, h5, h6, h7, -⟩ := h
    exact ofRow_span_iff.mpr ⟨h0.symm, h1.symm, h2.symm, h5.symm, h6.symm, h7.symm⟩
  | .respRead hi lo ignored => by
    simp only [frame_toList, encode, List.cons.injEq] at h
    obtain ⟨h0, h1, -⟩ := h
    exact ofRow_respRead_iff.mpr ⟨h0.symm, h1.symm⟩

/-- A completed frame of row 5 is the frame of the span in its two operand bytes. -/
theorem encode_of_ofRow_span {v : Int} {f : Frame} (h : OfRow (completeChecksum f) (Instr.span v).row) :
    ∃ i : Instr, i.wellFormed = true ∧ encode i = (completeChecksum f).toList ∧ i.row = (Instr.span v).row := by
  obtain ⟨h0, h1, h2, h5, h6, h7⟩ := ofRow_span_iff.mp h
  have h8 : (completeChecksum f)[8] = spanChecksum (completeChecksum f)[3] (completeChecksum f)[4] :=
    completeChecksum_last h0 h1 h2
  obtain ⟨hw, he⟩ := encode_span_of_bytes (completeChecksum f)[3] (completeChecksum f)[4]
  refine ⟨_, hw, ?_, rfl⟩
  rw [he, frame_toList, h0, h1, h2, h5, h6, h7, h8]

/-- A frame of the response's row is the response that its other seven bytes make. -/
theorem encode_of_ofRow_respRead {hi lo : Byte} {ignored : List Byte} {f : Frame}
    (h : OfRow f (Instr.respRead hi lo ignored).row) :
    ∃ i : Instr, i.wellFormed = true ∧ encode i = f.toList ∧ i.row = (Instr.respRead hi lo ignored).row := by
  obtain ⟨h0, h1⟩ := ofRow_respRead_iff.mp h
  refine ⟨.respRead f[2] f[3] [f[4], f[5], f[6], f[7], f[8]], rfl, ?_, rfl⟩
  rw [frame_toList, h0, h1]
  rfl

/-- A completed frame of a row is the encoding of an instruction of that row. -/
theorem encode_of_ofRow {i : Instr} {f : Frame} (h : OfRow (completeChecksum f) i.row) :
    ∃ i' : Instr, i'.wellFormed = true ∧ encode i' = (completeChecksum f).toList ∧ i'.row = i.row :=
  match i with
  | .read | .abcOn | .abcOff | .zero | .range5000 | .range2000 =>
    ⟨_, by rfl, (ofRow_iff_of_literal (by decide) (by decide) _).mp h, rfl⟩
  | .span _ => encode_of_ofRow_span h
  | .respRead _ _ _ => encode_of_ofRow_respRead h

/-! ### Table words -/

theorem exists_row_eq {r : TableRow} (hr : r ∈ opcodeTable) : ∃ i : Instr, i.row = r := by
  simp only [opcodeTable, List.mem_cons, List.not_mem_nil, or_false] at hr
  rcases hr with rfl | rfl | rfl | rfl | rfl | rfl | rfl | rfl <;> exact ⟨_, rfl⟩

theorem tableFrame_toNat (w : BitVec 72) : tableFrame 72 w.toNat = frameOfBits w := by
  rw [tableFrame, Nat.mod_eq_of_lt w.isLt, Nat.sub_self, Nat.pow_zero, Nat.mul_one, BitVec.ofNat_toNat,
    BitVec.setWidth_eq]

/-- A whole word decodes as the bytes of its completed frame do. -/
theorem decodeTableWord_eq_some_iff {w : BitVec 72} {i : Instr} :
    decodeTableWord 72 w.toNat = some i ↔ decode (completeChecksum (frameOfBits w)).toList = .ok i := by
  constructor
  · intro h
    rw [← tableFrame_toNat]
    exact Machine.decode_of_decodeTableWord h
  · intro h
    simp [decodeTableWord, tableFrame_toNat, h]

/-- Settles O3: mask and match compare the bytes the row fixes, filling in the checksum touches none of them, and a
completed frame of the row is an encoding, which decodes. -/
theorem decodeAgreesWithOpcodeTable : Obligations.DecodeAgreesWithOpcodeTable := by
  intro w r hr
  rw [and_mask_eq_iff hr, ← ofRow_completeChecksum hr]
  simp only [decodeTableWord_eq_some_iff, decode_eq_ok_iff]
  constructor
  · intro h
    obtain ⟨i, rfl⟩ := exists_row_eq hr
    obtain ⟨i', hw, he, hrow⟩ := encode_of_ofRow h
    exact ⟨i', ⟨hw, he⟩, hrow⟩
  · rintro ⟨i, ⟨-, he⟩, rfl⟩
    exact ofRow_of_encode he

end Sys2Proof

/-! SUPPORT. The frame of an accepted command is the encoding of the instruction its command word presents (R92). -/

namespace Sys2Proof.Machine

/-! ### Built frames and encodings -/

/-- The splitter gives the quotient and the remainder of a span in range (R121). -/
theorem split16_span {v : Int} (h0 : 0 ≤ v) (h1 : v ≤ 65535) :
    split16 (BitVec.ofInt 16 v) = (BitVec.ofInt 8 (v / 256), BitVec.ofInt 8 (v % 256)) := by
  apply Prod.ext
  all_goals
    apply BitVec.eq_of_toNat_eq
    simp only [split16, BitVec.toNat_ofNat, BitVec.toNat_ofInt]
    omega

/-- The checksum of a `SPAN` frame in R85's closed form. -/
theorem mkFrame_span (hi lo : Byte) :
    mkFrame Config.cmdSpan hi lo 0 0 0 = #v[0xFF, 0x01, 0x88, hi, lo, 0x00, 0x00, 0x00, spanChecksum hi lo] := by
  have hcs : -(0x01 + Config.cmdSpan + hi + lo + 0 + 0 + 0) = spanChecksum hi lo := by
    simp only [spanChecksum]
    bv_omega
  rw [mkFrame, checksum_mkFrame, hcs]

theorem buildSpan_eq_ok {v : Int} (h0 : 0 ≤ v) (h1 : v ≤ 65535) :
    buildSpan v = .ok (mkFrame Config.cmdSpan (BitVec.ofInt 8 (v / 256)) (BitVec.ofInt 8 (v % 256)) 0 0 0) := by
  rw [buildSpan, if_neg (by simp only [Config.spanMin, Config.spanMax]; omega), split16_span h0 h1]

/-- The builder accepts a span exactly when it has an encoding (R84, R134). -/
theorem wellFormed_of_buildSpan {v : Int} {f : Frame} (h : buildSpan v = .ok f) :
    (Instr.span v).wellFormed = true := by
  unfold buildSpan at h
  split at h
  · cases h
  · rename_i hr
    simp only [Config.spanMin, Config.spanMax] at hr
    rw [wellFormed_span_iff]
    omega

theorem buildSpan_eq_ok_iff {v : Int} {f : Frame} :
    buildSpan v = .ok f ↔ (Instr.span v).wellFormed = true ∧ encode (.span v) = f.toList := by
  have hframe : (Instr.span v).wellFormed = true → (buildSpan v = .ok f ↔ encode (.span v) = f.toList) := by
    intro hw
    obtain ⟨h0, h1⟩ := wellFormed_span_iff.mp hw
    rw [buildSpan_eq_ok h0 h1, mkFrame_span, Except.ok.injEq, ← Vector.toList_inj]
    rfl
  exact ⟨fun h => ⟨wellFormed_of_buildSpan h, (hframe (wellFormed_of_buildSpan h)).mp h⟩,
    fun ⟨hw, he⟩ => (hframe hw).mpr he⟩

/-- A command without a free operand: its one frame is built, and is its encoding. -/
theorem ok_eq_ok_iff_of_literal {i : Instr} {g : Frame} (hw : i.wellFormed = true) (hg : encode i = g.toList)
    (f : Frame) : (Except.ok g : Except ErrorKind Frame) = .ok f ↔ i.wellFormed = true ∧ encode i = f.toList := by
  rw [Except.ok.injEq, hg, Vector.toList_inj, and_iff_right hw]

/-- What is built of a command word that presents an instruction is the instruction's encoding, and it is built
exactly when the instruction has one (R136, R138). -/
theorem build_eq_ok_iff {i : Instr} {op : BitVec 3} {arg : Int} (hp : portOf i = some (op, arg)) {f : Frame} :
    build op arg = .ok f ↔ i.wellFormed = true ∧ encode i = f.toList := by
  cases i <;> cases hp
  case span => exact buildSpan_eq_ok_iff
  all_goals exact ok_eq_ok_iff_of_literal rfl (by decide) f

/-! ### Command words -/

/-- The instruction of a command word is presented by a command word of the same operation that builds the same. -/
theorem portOf_of_decodePort {op : BitVec 3} {arg : Int} {i : Instr} (h : decodePort op arg = .ok i) :
    ∃ a, portOf i = some (op, a) ∧ build op a = build op arg := by
  unfold decodePort at h
  split at h
  case h_6 => cases h
  all_goals
    rename_i ho
    obtain rfl := ofCode_eq_some ho
  case h_1 =>
    cases h
    exact ⟨0, rfl, rfl⟩
  case h_2 =>
    split at h <;> cases h
    · rename_i ha
      exact ⟨1, rfl, by simp [build, ofCode_code, abcOperand, ha]⟩
    · rename_i ha
      exact ⟨0, rfl, by rw [not_not.mp ha]⟩
  case h_3 =>
    cases h
    exact ⟨0, rfl, rfl⟩
  case h_4 =>
    cases h
    exact ⟨arg, rfl, rfl⟩
  case h_5 =>
    split at h
    · cases h
      exact ⟨5000, rfl, by subst arg; rfl⟩
    · split at h <;> cases h
      exact ⟨2000, rfl, by subst arg; rfl⟩

/-- The frame of an accepted command word decodes to what the word presents. -/
theorem decode_of_build {op : BitVec 3} {arg : Int} {f : Frame} (h : build op arg = .ok f) :
    ∃ i : Instr, decodePort op arg = .ok i ∧ decode f.toList = .ok i := by
  cases hd : decodePort op arg with
  | error e => cases (decodePort_error hd).symm.trans h
  | ok i =>
    obtain ⟨a, hp, ha⟩ := portOf_of_decodePort hd
    exact ⟨i, rfl, decode_eq_ok_iff.mpr ((build_eq_ok_iff hp).mp (ha.trans h))⟩

/-- Settles O13: the decoder reads the presented instruction off the frame, and the instruction tells the operation. -/
theorem framesTellCommandsApart : Obligations.FramesTellCommandsApart := by
  refine ⟨fun op arg f => decode_of_build, ?_⟩
  intro op op' arg arg' f h h'
  obtain ⟨i, hd, hf⟩ := decode_of_build h
  obtain ⟨i', hd', hf'⟩ := decode_of_build h'
  obtain rfl : i = i' := Except.ok.inj (hf.symm.trans hf')
  obtain ⟨a, hp, -⟩ := portOf_of_decodePort hd
  obtain ⟨a', hp', -⟩ := portOf_of_decodePort hd'
  obtain ⟨hop, -⟩ := Prod.mk.inj (Option.some.inj (hp.symm.trans hp'))
  exact ⟨hop, hd.trans hd'.symm⟩

end Sys2Proof.Machine

/-! SUPPORT. The checksum is the negated sum of its bytes in the additive group of the 8-bit words, so its laws are laws
of a list's sum (R111, R112, R113). -/

namespace Sys2Proof.Machine

theorem body_toList (b : Body) : b.toList = [b[0], b[1], b[2], b[3], b[4], b[5], b[6]] :=
  match b with
  | ⟨⟨[_, _, _, _, _, _, _]⟩, _⟩ => rfl

/-- Reducing after every addition and reducing the unbounded sum once give the same byte (R111). -/
theorem sum_toList_eq_ofNat_bodySum (b : Body) : b.toList.sum = BitVec.ofNat 8 (bodySum b) := by
  rw [ofNat_bodySum, body_toList]
  simp [add_assoc]

theorem checksum_eq_neg_sum (b : Body) : checksum b = -b.toList.sum := by
  rw [checksum_eq_neg, sum_toList_eq_ofNat_bodySum]

/-! ### The forms of R111 and R112 -/

theorem checksum_toNat (b : Body) : (checksum b).toNat = (256 - bodySum b % 256) % 256 := by
  rw [checksum_eq_neg, BitVec.toNat_neg, BitVec.toNat_ofNat]

theorem ofNat_mod_256 (n : Nat) : BitVec.ofNat 8 (n % 256) = BitVec.ofNat 8 n :=
  BitVec.eq_of_toNat_eq (by simp)

/-- Settles O7: each form is the negated 8-bit sum, read as a number or as a word. -/
theorem checksumIsTwosComplement : Obligations.ChecksumIsTwosComplement := by
  intro b
  refine ⟨?_, checksum_toNat b, ?_, ?_⟩
  · rw [checksum_toNat]
    omega
  · rw [checksum_eq_neg, ofNat_mod_256]
    exact BitVec.neg_eq_not_add _
  · rw [ofNat_mod_256, ofNat_bodySum]

/-- Settles O8: the running sum from the left is the list's sum. -/
theorem checksumSerialForm : Obligations.ChecksumSerialForm := by
  intro b
  rw [checksum_eq_neg_sum, zero_sub, List.sum_eq_foldl]

/-! ### The laws of R113 -/

/-- L1, the check equation. -/
theorem bodySum_add_checksum_mod (b : Body) : (bodySum b + (checksum b).toNat) % 256 = 0 := by
  rw [checksum_toNat]
  omega

/-- L1 and L2 of a built frame: its last byte is the checksum, so the check equation speaks of the frame. -/
theorem build_checksum {op : BitVec 3} {arg : Int} {f : Frame} (h : build op arg = .ok f) :
    (f[1].toNat + f[2].toNat + f[3].toNat + f[4].toNat + f[5].toNat + f[6].toNat + f[7].toNat + f[8].toNat) % 256
      = 0 ∧ checksum (frameBody f) = f[8] := by
  obtain ⟨-, -, hcs⟩ := build_framed h
  refine ⟨?_, hcs.symm⟩
  rw [hcs]
  exact bodySum_add_checksum_mod (frameBody f)

/-- L3. -/
theorem checksum_eq_of_perm {b c : Body} (h : b.toList.Perm c.toList) : checksum b = checksum c := by
  rw [checksum_eq_neg_sum, checksum_eq_neg_sum, h.sum_eq]

/-- L4: zero bytes contribute nothing. -/
theorem checksum_zero_payload (cmd : Byte) : checksum #v[0x01, cmd, 0, 0, 0, 0, 0] = -(0x01 + cmd) := by
  rw [checksum_eq_neg_sum]
  simp

/-- L5: the checksum depends on the sum modulo 256 alone. -/
theorem checksum_eq_of_bodySum_add {b c : Body} (h : bodySum b + 256 = bodySum c) : checksum b = checksum c := by
  apply BitVec.eq_of_toNat_eq
  rw [checksum_toNat, checksum_toNat, ← h, Nat.add_mod_right]

/-- Replacing one byte moves the checksum by the difference of the two bytes. -/
theorem checksum_set (b : Body) (i : Fin 7) (x : Byte) : checksum (b.set i x) = checksum b + (b[i] - x) := by
  have hsum : (b.set i x).toList.sum = b.toList.sum + (-b[i] + x) := by
    rw [Vector.toList_set, List.sum_set', dif_pos (by simp)]
    rfl
  rw [checksum_eq_neg_sum, checksum_eq_neg_sum, hsum]
  abel

/-- L5: what one byte gains and another loses cancels. -/
theorem checksum_shift (b : Body) {i j : Fin 7} (h : i ≠ j) (d : Byte) :
    checksum ((b.set i (b[i] + d)).set j (b[j] - d)) = checksum b := by
  have hj : (b.set i (b[i] + d))[j] = b[j] := Vector.getElem_set_ne _ _ (Fin.val_ne_of_ne h)
  rw [checksum_set, checksum_set, hj]
  abel

/-- L6: the difference of two different bytes is not zero. -/
theorem checksum_set_ne (b : Body) (i : Fin 7) {x : Byte} (h : x ≠ b[i]) : checksum (b.set i x) ≠ checksum b := by
  rw [checksum_set, Ne, add_eq_left, sub_eq_zero]
  exact h.symm

/-- L7, with the input that has one byte other than zero. -/
theorem checksum_surjective (c : Byte) : checksum #v[-c, 0, 0, 0, 0, 0, 0] = c := by
  rw [checksum_eq_neg_sum]
  simp

/-- Settles O9, with the inputs `00 ... 00` and `FF 01 00 ... 00` as the pair of L5. -/
theorem checksumLaws : Obligations.ChecksumLaws := by
  refine ⟨bodySum_add_checksum_mod, fun _ _ _ => build_checksum, fun _ _ => checksum_eq_of_perm,
    fun cmd => ⟨checksum_zero_payload cmd, ?_⟩,
    ⟨?_, fun _ _ => checksum_eq_of_bodySum_add, fun b _ _ d h => checksum_shift b h d⟩,
    fun b i _ => checksum_set_ne b i, fun c => ⟨_, checksum_surjective c⟩⟩
  · rw [checksum_zero_payload]
    bv_omega
  · exact ⟨#v[0, 0, 0, 0, 0, 0, 0], #v[0xFF, 0x01, 0, 0, 0, 0, 0], by decide, by decide⟩

end Sys2Proof.Machine

/-! SUPPORT. The splitter's two bytes and the joiner's word as numbers: the quotient and remainder by 256 and the number
they are the digits of (R120, R121, R122). -/

namespace Sys2Proof.Machine

theorem split16_high_toNat (v : Word16) : (split16 v).1.toNat = v.toNat / 256 := by
  have hlt : v.toNat / 256 < 2 ^ 8 := Nat.div_lt_of_lt_mul v.isLt
  exact (BitVec.toNat_ofNat ..).trans (Nat.mod_eq_of_lt hlt)

theorem split16_low_toNat (v : Word16) : (split16 v).2.toNat = v.toNat % 256 :=
  (BitVec.toNat_ofNat ..).trans (Nat.mod_mod _ 256)

/-- A word is its quotient by 256 times 256 plus its remainder. -/
theorem join16_split16 (v : Word16) : join16 (split16 v).1 (split16 v).2 = v := by
  apply BitVec.eq_of_toNat_eq
  rw [join16_toNat, split16_high_toNat, split16_low_toNat]
  exact Nat.div_add_mod' _ _

/-- The low byte is below 256, so the digits of `hi * 256 + lo` are the two bytes again. -/
theorem split16_join16 (hi lo : Byte) : split16 (join16 hi lo) = (hi, lo) := by
  have hlo : lo.toNat < 256 := lo.isLt
  have hhigh : (split16 (join16 hi lo)).1.toNat = hi.toNat := by
    rw [split16_high_toNat, join16_toNat]
    omega
  have hlow : (split16 (join16 hi lo)).2.toNat = lo.toNat := by
    rw [split16_low_toNat, join16_toNat]
    omega
  exact Prod.ext (BitVec.eq_of_toNat_eq hhigh) (BitVec.eq_of_toNat_eq hlow)

/-- Settles O10: the values of the splitter and of the joiner, and that each undoes the other. -/
theorem splitJoinInverse : Obligations.SplitJoinInverse :=
  ⟨fun v => ⟨split16_high_toNat v, split16_low_toNat v, join16_split16 v⟩,
    fun hi lo => ⟨join16_toNat hi lo, split16_join16 hi lo⟩⟩

end Sys2Proof.Machine

/-! SUPPORT. `Build` operation by operation (R131 to R136), its frames computed and stored (R138), their shape and their
number (R137), and the span it rejects in `IDLE` (R134, R161). -/

namespace Sys2Proof.Machine

/-! ### The frame or the error of every operation -/

/-- A span out of range is rejected before anything is split (R134). -/
theorem buildSpan_eq_error {v : Int} (h : v < 0 ∨ 65535 < v) : buildSpan v = .error .invalidArgument :=
  if_pos h

theorem buildRange_eq_error {v : Int} (h5 : v ≠ 5000) (h2 : v ≠ 2000) : buildRange v = .error .invalidArgument := by
  rw [buildRange, if_neg h5, if_neg h2]

theorem build_abc_of_ne_zero {arg : Int} (h : arg ≠ 0) : build 1 arg = .ok (buildAbc true) :=
  congrArg (fun on => Except.ok (buildAbc on)) (decide_eq_true h)

theorem build_reserved {op : BitVec 3} (h : 5 ≤ op.toNat) (arg : Int) : build op arg = .error .invalidArgument := by
  rw [build, ofCode_eq_none h]

/-- Settles O11: the fixed frames by their literals, a span by its two bytes, the rest by the builders' tests. -/
theorem buildFrames : Obligations.BuildFrames := by
  intro arg
  refine ⟨congrArg Except.ok buildRead_eq, ?abcOn, congrArg Except.ok buildAbc_false, congrArg Except.ok buildZero_eq,
    ?span, buildSpan_eq_error, rfl, rfl, buildRange_eq_error, fun op h => build_reserved h arg⟩
  case abcOn =>
    intro h
    rw [build_abc_of_ne_zero h, buildAbc_true]
  case span =>
    intro h0 h1
    exact (buildSpan_eq_ok h0 h1).trans (congrArg Except.ok (mkFrame_span _ _))

/-! ### Computed and stored frames -/

/-- The frame computed from the fields of a command is its literal encoding. -/
theorem computedFrame_eq_encode {i : Instr} (hw : i.wellFormed = true) (hp : portOf i ≠ none) :
    ∃ f : Frame, computedFrame i = some f ∧ encode i = f.toList := by
  cases i
  case span v =>
    obtain ⟨h0, h1⟩ := wellFormed_span_iff.mp hw
    have hb := buildSpan_eq_ok h0 h1
    exact ⟨_, congrArg Except.toOption hb, (buildSpan_eq_ok_iff.mp hb).2⟩
  case respRead => exact absurd rfl hp
  all_goals exact ⟨_, rfl, by decide⟩

/-- Settles O14: the computed frame is the literal one, and that is the frame `Build` gives. -/
theorem builderAgreesWithEncoder : Obligations.BuilderAgreesWithEncoder := by
  refine ⟨?_, congrArg Except.ok mkFrame_range5000.symm, congrArg Except.ok mkFrame_range2000.symm⟩
  intro i op arg hw hp
  obtain ⟨f, hf, he⟩ := computedFrame_eq_encode hw (hp ▸ Option.some_ne_none _)
  exact ⟨f, (build_eq_ok_iff hp).mpr ⟨hw, he⟩, hf, he.symm⟩

/-! ### What every built frame is -/

/-- A built frame is the encoding of a command of the same operation. -/
theorem exists_command_of_build {op : BitVec 3} {arg : Int} {f : Frame} (h : build op arg = .ok f) :
    ∃ (i : Instr) (a : Int), portOf i = some (op, a) ∧ i.wellFormed = true ∧ encode i = f.toList := by
  obtain ⟨i, hd, hf⟩ := decode_of_build h
  obtain ⟨a, hp, -⟩ := portOf_of_decodePort hd
  exact ⟨i, a, hp, encode_of_decode hf⟩

/-- Offset 2 of a command's encoding is the command code of its operation (R7, R83). -/
theorem encode_commandCode {i : Instr} {op : BitVec 3} {arg : Int} (hp : portOf i = some (op, arg)) :
    op = 0 ∧ (encode i)[2]? = some 0x86 ∨ op = 1 ∧ (encode i)[2]? = some 0x79 ∨
      op = 2 ∧ (encode i)[2]? = some 0x87 ∨ op = 3 ∧ (encode i)[2]? = some 0x88 ∨
      op = 4 ∧ (encode i)[2]? = some 0x99 := by
  cases i
  case respRead => cases hp
  all_goals
    obtain ⟨rfl, -⟩ := Prod.mk.inj (Option.some.inj hp)
    simp [encode]

theorem build_commandCode {op : BitVec 3} {arg : Int} {f : Frame} (h : build op arg = .ok f) :
    op = 0 ∧ f[2] = 0x86 ∨ op = 1 ∧ f[2] = 0x79 ∨ op = 2 ∧ f[2] = 0x87 ∨ op = 3 ∧ f[2] = 0x88 ∨
      op = 4 ∧ f[2] = 0x99 := by
  obtain ⟨i, a, hp, -, he⟩ := exists_command_of_build h
  have hcode := encode_commandCode hp
  have hbyte : (encode i)[2]? = some f[2] := by
    rw [he, frame_toList]
    rfl
  simpa only [hbyte, Option.some.injEq] using hcode

/-! ### How many frames there are -/

/-- The commands that are sent: the host presents them, and they have an encoding. -/
def sentCommands : Set Instr := { i | portOf i ≠ none ∧ i.wellFormed = true }

/-- The commands without a free operand. -/
def fixedCommands : Finset Instr := {.read, .abcOn, .abcOff, .zero, .range5000, .range2000}

theorem sentCommands_eq : sentCommands = Instr.span '' Set.Icc 0 65535 ∪ fixedCommands := by
  ext i
  cases i
  case span v => simp [sentCommands, fixedCommands, portOf, wellFormed_span_iff]
  case respRead => simp [sentCommands, fixedCommands, portOf]
  all_goals simp [sentCommands, fixedCommands, portOf, Instr.wellFormed, Instr.illFormed]

/-- Every span in range is one command, and there are six others. -/
theorem ncard_sentCommands : sentCommands.ncard = 65542 := by
  have hspans : (Instr.span '' Set.Icc 0 65535).ncard = 65536 := by
    rw [Set.ncard_image_of_injective _ fun _ _ => Instr.span.inj, ← Finset.coe_Icc, Set.ncard_coe_finset,
      Int.card_Icc]
    rfl
  have hfixed : (fixedCommands : Set Instr).ncard = 6 := Set.ncard_coe_finset fixedCommands
  have hdisjoint : Disjoint (Instr.span '' Set.Icc 0 65535) (fixedCommands : Set Instr) := by
    rw [Set.disjoint_left]
    rintro _ ⟨v, -, rfl⟩
    simp [fixedCommands]
  rw [sentCommands_eq, Set.ncard_union_eq hdisjoint ((Set.finite_Icc 0 65535).image _), hspans, hfixed]

/-- As byte lists, the frames `Build` gives are the encodings of the commands that are sent. -/
theorem toList_image_builtFrames :
    Vector.toList '' { f : Frame | ∃ (op : BitVec 3) (arg : Int), build op arg = .ok f } = encode '' sentCommands := by
  ext bytes
  constructor
  · rintro ⟨f, ⟨op, arg, h⟩, rfl⟩
    obtain ⟨i, a, hp, hw, he⟩ := exists_command_of_build h
    exact ⟨i, ⟨hp ▸ Option.some_ne_none _, hw⟩, he⟩
  · rintro ⟨i, ⟨hp, hw⟩, rfl⟩
    obtain ⟨⟨op, arg⟩, hpw⟩ := Option.ne_none_iff_exists'.mp hp
    obtain ⟨f, -, he⟩ := computedFrame_eq_encode hw hp
    exact ⟨f, ⟨op, arg, (build_eq_ok_iff hpw).mpr ⟨hw, he⟩⟩, he.symm⟩

/-- The decoder tells the encodings of two commands apart. -/
theorem encode_injOn_sentCommands : Set.InjOn encode sentCommands := by
  rintro i ⟨-, hi⟩ j ⟨-, hj⟩ he
  exact Except.ok.inj ((decode_encode hi).symm.trans (he ▸ decode_encode hj))

theorem ncard_builtFrames :
    { f : Frame | ∃ (op : BitVec 3) (arg : Int), build op arg = .ok f }.ncard = 65542 := by
  rw [← Set.ncard_image_of_injective _ fun _ _ => Vector.toList_inj.mp, toList_image_builtFrames,
    encode_injOn_sentCommands.ncard_image, ncard_sentCommands]

/-- Settles O12: a built frame is the encoding of a command, and encodings of different commands differ. -/
theorem builtFrameShape : Obligations.BuiltFrameShape := by
  refine ⟨?_, ncard_builtFrames⟩
  intro op arg f h
  obtain ⟨hstart, haddr, hcs⟩ := build_framed h
  obtain ⟨hsum, -⟩ := build_checksum h
  obtain ⟨i, a, hp, hw, he⟩ := exists_command_of_build h
  exact ⟨hstart, haddr, hcs, hsum, build_commandCode h, i, hp ▸ Option.some_ne_none _, hw, he⟩

/-! ### The rejected span -/

/-- A rejection in `IDLE` leaves the phase where it is. -/
theorem raise_dropReading_of_idle {s : State} (e : ErrorKind) (hp : s.phase = .idle) :
    raise e (dropReading s) = { s with co2Valid := false, status := e.status } := by
  rw [raise, dropReading, ← hp]

/-- Settles O19: `SPAN` is what the command word with code 3 runs, and `Build` refuses the word. -/
theorem spanOutOfRangeRejected : Obligations.SpanOutOfRangeRejected := by
  intro s span hp h
  have hb : build 3 span = .error .invalidArgument := buildSpan_eq_error h
  calc exec (.span span) s
    _ = cmdIssue 3 span s := rfl
    _ = .next (raise .invalidArgument (dropReading s)) := cmdIssue_of_build_error hp hb
    _ = .next { s with co2Valid := false, status := .invalidArgument } :=
      congrArg Host.Outcome.next (raise_dropReading_of_idle .invalidArgument hp)

end Sys2Proof.Machine

/-! SUPPORT. Which responses the parser accepts, and with which reading (R150, R151), and that the bytes from offset 4 on
influence nothing (R152). -/

namespace Sys2Proof.Machine

/-- The parser's choice is made on the first four bytes, and they give the reading. -/
theorem parseReadResponse_append (a b c d : Byte) (t : List Byte) :
    parseReadResponse ([a, b, c, d] ++ t) = parseReadResponse [a, b, c, d] := rfl

/-- The converse of `parseReadResponse_ok`. -/
theorem parseReadResponse_accepted (hi lo : Byte) (ignored : List Byte) :
    parseReadResponse (0xFF :: 0x86 :: hi :: lo :: ignored) = .ok (join16 hi lo) := by
  rw [parseReadResponse, if_pos ⟨rfl, rfl⟩]

/-- A list whose first four offsets hold four given bytes begins with them. -/
theorem exists_eq_cons_of_getElem? {r : List Byte} {a b c d : Byte} (ha : r[0]? = some a) (hb : r[1]? = some b)
    (hc : r[2]? = some c) (hd : r[3]? = some d) : ∃ t, r = a :: b :: c :: d :: t := by
  obtain ⟨r, rfl⟩ := List.head?_eq_some_iff.mp (List.head?_eq_getElem?.trans ha)
  obtain ⟨r, rfl⟩ := List.head?_eq_some_iff.mp (List.head?_eq_getElem?.trans hb)
  obtain ⟨r, rfl⟩ := List.head?_eq_some_iff.mp (List.head?_eq_getElem?.trans hc)
  obtain ⟨r, rfl⟩ := List.head?_eq_some_iff.mp (List.head?_eq_getElem?.trans hd)
  exact ⟨r, rfl⟩

/-- An accepted response and its reading, by offsets (R150). -/
theorem parseReadResponse_eq_ok_iff {r : List Byte} {v : Word16} :
    parseReadResponse r = .ok v ↔ 4 ≤ r.length ∧ r[0]? = some 0xFF ∧ r[1]? = some 0x86 ∧
      ∃ hi lo : Byte, r[2]? = some hi ∧ r[3]? = some lo ∧ v.toNat = hi.toNat * 256 + lo.toNat := by
  constructor
  · intro h
    obtain ⟨hi, lo, ignored, rfl, rfl⟩ := parseReadResponse_ok h
    exact ⟨Nat.le_add_left 4 ignored.length, rfl, rfl, hi, lo, rfl, rfl, join16_toNat hi lo⟩
  · rintro ⟨-, h0, h1, hi, lo, h2, h3, hv⟩
    obtain ⟨ignored, rfl⟩ := exists_eq_cons_of_getElem? h0 h1 h2 h3
    obtain rfl : v = join16 hi lo := BitVec.eq_of_toNat_eq (hv.trans (join16_toNat hi lo).symm)
    exact parseReadResponse_accepted hi lo ignored

/-- Any two value bytes will do, so acceptance is a matter of the length and the first two bytes. -/
theorem exists_parseReadResponse_eq_ok_iff {r : List Byte} :
    (∃ v, parseReadResponse r = .ok v) ↔ 4 ≤ r.length ∧ r[0]? = some 0xFF ∧ r[1]? = some 0x86 := by
  constructor
  · rintro ⟨v, h⟩
    obtain ⟨hlen, h0, h1, -⟩ := parseReadResponse_eq_ok_iff.mp h
    exact ⟨hlen, h0, h1⟩
  · rintro ⟨hlen, h0, h1⟩
    exact ⟨join16 r[2] r[3], parseReadResponse_eq_ok_iff.mpr ⟨hlen, h0, h1, r[2], r[3],
      List.getElem?_eq_getElem _, List.getElem?_eq_getElem _, join16_toNat _ _⟩⟩

/-- What is not accepted is `Malformed`: the parser has no other error. -/
theorem parseReadResponse_eq_error_iff {r : List Byte} :
    parseReadResponse r = .error .malformedResponse ↔ ¬ ∃ v, parseReadResponse r = .ok v := by
  cases h : parseReadResponse r with
  | ok v => simp
  | error e => simp [parse_error h]

/-- Settles O15: acceptance by offsets, and a malformed response is one that is not accepted. -/
theorem parseAcceptsExactly : Obligations.ParseAcceptsExactly := by
  refine fun r => ⟨fun v => parseReadResponse_eq_ok_iff, ?_⟩
  rw [parseReadResponse_eq_error_iff, exists_parseReadResponse_eq_ok_iff, not_and_or, not_and_or, not_le]

/-- Settles O16: with either tail the parser gives what it gives on the four bytes. -/
theorem parseIgnoresTail : Obligations.ParseIgnoresTail :=
  ⟨fun a b c d t u => (parseReadResponse_append a b c d t).trans (parseReadResponse_append a b c d u).symm,
    fun hi lo => ⟨join16 hi lo, parseReadResponse_accepted hi lo _, join16_toNat hi lo⟩⟩

end Sys2Proof.Machine

/-! SUPPORT. A command or a response as it is executed (R131 to R135, R161, R162, R170), and R160's table of events. -/

namespace Sys2Proof.Machine

/-! ### The table of enabled events -/

@[simp] theorem enabled_cmdIssue_iff {p : Phase} {op : BitVec 3} {arg : Int} :
    enabled p (.cmdIssue op arg) = true ↔ p = .idle := decide_eq_true_iff

@[simp] theorem enabled_txByte_iff {p : Phase} : enabled p .txByte = true ↔ p = .tx := decide_eq_true_iff

@[simp] theorem enabled_txFail_iff {p : Phase} : enabled p .txFail = true ↔ p = .tx := decide_eq_true_iff

@[simp] theorem enabled_rxByte_iff {p : Phase} {b : Byte} : enabled p (.rxByte b) = true ↔ p = .rx :=
  decide_eq_true_iff

@[simp] theorem enabled_rxTimeout_iff {p : Phase} : enabled p .rxTimeout = true ↔ p = .rx := decide_eq_true_iff

@[simp] theorem enabled_rxFail_iff {p : Phase} : enabled p .rxFail = true ↔ p = .rx := decide_eq_true_iff

@[simp] theorem enabled_reset (p : Phase) : enabled p .reset = true := rfl

/-- Settles O23: each event's row of the table, read in each of the three phases. -/
theorem enabledEvents : Obligations.EnabledEvents := by
  intro e
  cases e <;> simp

/-! ### Commands -/

/-- A command's meaning is to be presented at the port, with what `Build` gives of its command word. -/
theorem exec_of_portOf {i : Instr} {op : BitVec 3} {arg : Int} (h : portOf i = some (op, arg)) (s : State) :
    ∃ o : Op, o.code = op ∧ exec i s = .next (present o arg (build op arg) s) := by
  cases i <;> cases h <;> exact ⟨_, rfl, rfl⟩

/-- In `IDLE` an encodable command is accepted: its frame is the instruction's encoding (R138, R161). -/
theorem exec_accepted {s : State} {i : Instr} {o : Op} {arg : Int} {f : Frame} (hp : s.phase = .idle)
    (hport : portOf i = some (o.code, arg)) (hw : i.wellFormed = true) (he : encode i = f.toList) :
    exec i s = .next (acceptCommand o f (dropReading s)) := by
  obtain ⟨o', ho, hx⟩ := exec_of_portOf hport s
  obtain rfl := code_inj ho
  rw [hx, (build_eq_ok_iff hport).mpr ⟨hw, he⟩, present, if_pos hp, issue]

/-- Settles O17: each of the six has one command word and one literal frame. -/
theorem fixedCommandsComplete : Obligations.FixedCommandsComplete := fun _ hp =>
  ⟨exec_accepted (o := .read) hp rfl rfl rfl, exec_accepted (o := .abc) hp rfl rfl rfl,
    exec_accepted (o := .abc) hp rfl rfl rfl, exec_accepted (o := .zero) hp rfl rfl rfl,
    exec_accepted (o := .range) hp rfl rfl rfl, exec_accepted (o := .range) hp rfl rfl rfl⟩

/-- Settles O18: a span in range has an encoding, and its frame is that. -/
theorem spanInRangeCompletes : Obligations.SpanInRangeCompletes := fun _ _ hp h0 h1 =>
  exec_accepted (o := .span) hp rfl (wellFormed_span_iff.mpr ⟨h0, h1⟩) rfl

/-- Settles O21: outside `IDLE` a presented command is held at the port. -/
theorem busyCommandWaits : Obligations.BusyCommandWaits := by
  intro s i op arg hp hport
  obtain ⟨o, rfl, hx⟩ := exec_of_portOf hport s
  rw [hx, present, if_neg hp, holdAtPort]

/-! ### The response -/

theorem exec_respRead_of_rx {s : State} (hi lo : Byte) (ignored : List Byte) (hp : s.phase = .rx) :
    exec (.respRead hi lo ignored) s = .next (acceptReading (join16 hi lo) s) :=
  congrArg Host.Outcome.next (if_pos hp)

/-- Settles O20: the recorded reading is the joined value bytes. -/
theorem respReadCompletes : Obligations.RespReadCompletes := fun _ hi lo ignored hp =>
  ⟨join16 hi lo, join16_toNat hi lo, exec_respRead_of_rx hi lo ignored hp⟩

/-- Settles O22: `RESP_READ` records a reading in phase `RX` only. -/
theorem noResponseOutsideRx : Obligations.NoResponseOutsideRx := fun _ _ _ _ hp =>
  congrArg Host.Outcome.next (if_neg hp)

end Sys2Proof.Machine

/-! SUPPORT. What each event writes, as a record update (R161 to R169). -/

namespace Sys2Proof.Machine

/-! ### `CmdIssue` -/

theorem buildSpan_eq_error_iff {v : Int} : buildSpan v = .error .invalidArgument ↔ v < 0 ∨ 65535 < v := by
  refine ⟨fun h => ?_, buildSpan_eq_error⟩
  by_contra hv
  rw [not_or, not_lt, not_lt] at hv
  obtain ⟨h0, h1⟩ := hv
  cases (buildSpan_eq_ok h0 h1).symm.trans h

theorem buildRange_eq_error_iff {v : Int} :
    buildRange v = .error .invalidArgument ↔ v ≠ 2000 ∧ v ≠ 5000 := by
  refine ⟨fun h => ⟨?_, ?_⟩, fun ⟨h2, h5⟩ => buildRange_eq_error h5 h2⟩
  all_goals
    rintro rfl
    cases h

/-- A 3-bit code names one of the five operations or is reserved (R83, R86). -/
theorem op_cases : ∀ op : BitVec 3, op = 0 ∨ op = 1 ∨ op = 2 ∨ op = 3 ∨ op = 4 ∨ 5 ≤ op.toNat := by decide

/-- Everything `Build` refuses (R161). -/
theorem build_eq_error_iff {op : BitVec 3} {arg : Int} : build op arg = .error .invalidArgument ↔
    op = 3 ∧ (arg < 0 ∨ 65535 < arg) ∨ op = 4 ∧ arg ≠ 2000 ∧ arg ≠ 5000 ∨ 5 ≤ op.toNat := by
  rcases op_cases op with rfl | rfl | rfl | rfl | rfl | hop
  · exact iff_of_false nofun (by simp)
  · exact iff_of_false nofun (by simp)
  · exact iff_of_false nofun (by simp)
  · exact buildSpan_eq_error_iff.trans (by simp)
  · exact buildRange_eq_error_iff.trans (by simp)
  · exact iff_of_true (build_reserved hop arg) (.inr (.inr hop))

/-- Settles O24: in `IDLE` the event follows what `Build` gives, and a refusal leaves the phase where it is. -/
theorem cmdIssueFollowsBuild : Obligations.CmdIssueFollowsBuild := by
  refine fun s op arg => ⟨enabled_cmdIssue_iff, build_eq_error_iff, fun hp => ⟨fun e hb => ?_, fun f hb => ?_⟩⟩
  · obtain rfl := build_error hb
    refine ⟨rfl, (cmdIssue_of_build_error hp hb).trans ?_⟩
    exact congrArg Host.Outcome.next (raise_dropReading_of_idle .invalidArgument hp)
  · rcases cmdIssue_cases op arg hp with ⟨hb', -⟩ | ⟨o, f', ho, hb', hc⟩
    · cases hb.symm.trans hb'
    · obtain rfl := Except.ok.inj (hb.symm.trans hb')
      exact ⟨o, ho, hc⟩

/-! ### `TxByte` and the failures -/

/-- What sending writes, with the count as the index of the byte. -/
theorem sendByte_of_txi {s : State} {n : Fin 9} (hi : s.txi = n.castSucc) (hn : s.txi.val < 9) :
    sendByte s hn = { s with txStream := s.txStream ++ [s.txf[n]], txi := n.succ } := by
  cases s
  subst hi
  rfl

/-- Settles O25: with `n` bytes sent the next is `txf[n]`, and after the ninth the operation decides the phase. -/
theorem txByteSendsNextByte : Obligations.TxByteSendsNextByte := by
  refine fun s => ⟨enabled_txByte_iff, fun n _ hi => ?_⟩
  have hval : s.txi.val = n.val := by rw [hi, Fin.val_castSucc]
  have hn : s.txi.val < 9 := hval ▸ n.isLt
  refine ⟨fun h8 => ?_, fun h8 hr => ?_, fun h8 hr => ?_⟩
  · rw [perform, txByte_of_lt_eight hn (hval ▸ h8), sendByte_of_txi hi]
  · rw [perform, txByte_ninth_read hn (hval ▸ h8) hr, sendByte_of_txi hi, enterRx]
  · rw [perform, txByte_ninth_other hn (hval ▸ h8) hr, sendByte_of_txi hi, endOk]

/-- Settles O26: either failure raises `TRANSPORT_ERROR`, and to raise is to write `status` and `phase`. -/
theorem transportFailureEndsOperation : Obligations.TransportFailureEndsOperation := fun _ =>
  ⟨enabled_txFail_iff, enabled_rxFail_iff, fun _ => rfl, fun _ => rfl⟩

/-! ### `RxByte` and `RxTimeout` -/

theorem finish_of_reading {s : State} {v : Word16} (hp : s.phase = .rx)
    (h : parseReadResponse (received s) = .ok v) : finish s = .next (acceptReading v s) := by
  rw [finish_eq hp, h]

theorem finish_of_malformed {s : State} {e : ErrorKind} (hp : s.phase = .rx)
    (h : parseReadResponse (received s) = .error e) : finish s = .next (raise .malformedResponse s) := by
  rw [finish_eq hp, h]

/-- What storing writes, with the count as the index of the byte. -/
theorem storeByte_of_rxn {s : State} {n : Fin 9} (b : Byte) (hi : s.rxn = n.castSucc) (hn : s.rxn.val < 9) :
    storeByte b s hn = { s with rxb := s.rxb.set n b, rxn := n.succ } := by
  cases s
  subst hi
  rfl

/-- With nine bytes received the response is the whole buffer. -/
theorem received_of_rxn_nine {s : State} (h : s.rxn.val = 9) : received s = s.rxb.toList := by
  rw [received, h]
  exact List.take_of_length_le (by simp)

/-- Settles O27: with `n` bytes received the next goes to `rxb[n]`, and the ninth is followed by `Finish` on all nine. -/
theorem rxByteStoresThenParses : Obligations.RxByteStoresThenParses := by
  refine fun s b => ⟨enabled_rxByte_iff, fun n hp hi => ?_⟩
  have hval : s.rxn.val = n.val := by rw [hi, Fin.val_castSucc]
  have hn : s.rxn.val < 9 := hval ▸ n.isLt
  refine ⟨fun h8 => ?_, fun h8 => ?_⟩
  · rw [perform, rxByte_of_lt_eight b hn (hval ▸ h8), storeByte_of_rxn b hi]
  · have hfinish : perform (.rxByte b) s = finish { s with rxb := s.rxb.set n b, rxn := n.succ } := by
      rw [perform, rxByte_ninth b hn (hval ▸ h8), storeByte_of_rxn b hi]
    have hall := received_of_rxn_nine (s := { s with rxb := s.rxb.set n b, rxn := n.succ }) (congrArg (· + 1) h8)
    exact ⟨fun v hv => hfinish.trans (finish_of_reading hp (hall ▸ hv)),
      fun e he => hfinish.trans (finish_of_malformed hp (hall ▸ he))⟩

/-- A byte of the response is the byte of `rxb` at its offset (R25). -/
theorem received_getElem? {s : State} {k : Nat} (hk : k < 9) (hn : k < s.rxn.val) :
    (received s)[k]? = some s.rxb[k] := by
  rw [received, List.getElem?_take_of_lt hn]
  simp [hk]

/-- The received bytes parse to a reading exactly when there are four of them, the first two `FF 86` (R167). -/
theorem exists_reading_received_iff (s : State) : (∃ v, parseReadResponse (received s) = .ok v) ↔
    4 ≤ s.rxn.val ∧ s.rxb[0] = 0xFF ∧ s.rxb[1] = 0x86 := by
  rw [exists_parseReadResponse_eq_ok_iff, received_length]
  refine and_congr_right fun h4 => ?_
  rw [received_getElem? (by decide) (by omega), received_getElem? (by decide) (by omega), Option.some.injEq,
    Option.some.injEq]

/-- Settles O28: the timeout is `Finish` on the bytes received, and their first four tell the result. -/
theorem rxTimeoutParsesReceived : Obligations.RxTimeoutParsesReceived := by
  refine fun s => ⟨enabled_rxTimeout_iff, fun hp => ⟨fun v hv => finish_of_reading hp hv,
    fun e he => finish_of_malformed hp he, fun hbad => ?_, fun h4 h0 h1 => ?_⟩⟩
  · refine finish_of_malformed hp (parseReadResponse_eq_error_iff.mpr ?_)
    rw [exists_reading_received_iff, not_and_or, not_and_or, not_le]
    exact hbad.imp_left Nat.lt_succ_of_le
  · obtain ⟨v, hv⟩ := (exists_reading_received_iff s).mpr ⟨h4, h0, h1⟩
    obtain ⟨-, -, -, hi, lo, h2, h3, hval⟩ := parseReadResponse_eq_ok_iff.mp hv
    rw [← rxb_eq_of_received (by decide) h2, ← rxb_eq_of_received (by decide) h3] at hval
    exact ⟨v, hval, finish_of_reading hp hv⟩

end Sys2Proof.Machine

/-! SUPPORT. Which event a step performs and what it leaves pending (R160, R162), what it runs, and the order of the
phases (R172, R175). -/

namespace Sys2Proof.Machine

/-- Settles O31: the first enabled event is the one taken, and without one nothing happens. -/
theorem stepTakesFirstEnabled : Obligations.StepTakesFirstEnabled := by
  refine fun s => ⟨fun before e after hpending hb he => ?_, fun hnone => ?_⟩
  · exact step_of_takeEnabled (hpending ▸ takeEnabled_append hb he)
  · exact step_of_takeEnabled_none ((takeEnabled_none_iff _ _).mpr hnone)

/-- Settles O32: the first pending event is enabled, and it runs what its bytes or its word decode to. -/
theorem stepRunsDecodedInstruction : Obligations.StepRunsDecodedInstruction := by
  refine fun s i rest => ⟨fun op arg hp hpending hd => ?_, fun b hp hn hpending hd => ?_, fun hp hpending hd => ?_⟩
  · rw [step_head hpending (enabled_cmdIssue_iff.mpr hp), perform, cmdIssue, hd]
  · have h8 : s.rxn.val = 8 := congrArg Fin.val hn
    rw [step_head hpending (enabled_rxByte_iff.mpr hp), perform,
      rxByte_ninth b (s := { s with pending := rest }) (by simp [h8]) h8,
      storeByte_of_rxn (s := { s with pending := rest }) (n := 8) b hn]
    refine finish_of_decodeResponse ?_
    rwa [received_of_rxn_nine rfl]
  · rw [step_head hpending (enabled_rxTimeout_iff.mpr hp)]
    exact finish_of_decodeResponse hd

/-- An event touches nothing that the agents have ready. -/
theorem perform_pending {s t : State} {e : Event} (he : enabled s.phase e = true) (ht : perform e s = .next t) :
    t.pending = s.pending := by
  rcases perform_cases he ht with ⟨-, op, arg, -, hc⟩ | ⟨-, -, hn, hc⟩ | ⟨-, -, rfl⟩ | ⟨-, b, -, hn, hc⟩ | ⟨-, -, hc⟩ |
    ⟨-, -, rfl⟩ | ⟨-, rfl⟩
  · -- CmdIssue
    rcases hc with ⟨-, rfl⟩ | ⟨o, f, -, -, rfl⟩ <;> rfl
  · -- TxByte
    rcases hc with ⟨-, rfl⟩ | ⟨-, -, rfl⟩ | ⟨-, -, rfl⟩ <;> rfl
  · -- TxFail
    rfl
  · -- RxByte
    rcases hc with ⟨-, rfl⟩ | ⟨-, ⟨v, -, rfl⟩ | ⟨-, rfl⟩⟩ <;> rfl
  · -- RxTimeout
    rcases hc with ⟨v, -, rfl⟩ | ⟨-, rfl⟩ <;> rfl
  · -- RxFail
    rfl
  · -- Reset
    rfl

/-- A step takes at most one event off what is pending, and an enabled one. -/
theorem step_pending {s t : State} (h : step s = .next t) : t.pending = s.pending ∨
    ∃ before e after, enabled s.phase e = true ∧ s.pending = before ++ e :: after ∧ t.pending = before ++ after := by
  rcases step_cases h with ⟨-, rfl⟩ | ⟨e, rest, htake, he, hp⟩
  · exact .inl rfl
  · obtain ⟨-, before, after, hpending, rfl, -⟩ := takeEnabled_some htake
    exact .inr ⟨before, e, after, he, hpending, perform_pending (s := { s with pending := before ++ after }) he hp⟩

/-- Of a kind of events none of which is enabled, a step takes none. -/
theorem step_filter_pending {s t : State} {kind : Event → Bool} (h : step s = .next t)
    (hkind : ∀ e, enabled s.phase e = true → kind e = false) : t.pending.filter kind = s.pending.filter kind := by
  rcases step_pending h with hp | ⟨before, e, after, he, hs, ht⟩
  · rw [hp]
  · rw [hs, ht, List.filter_append, List.filter_append, List.filter_cons_of_neg (by simp [hkind e he])]

/-- Commands are taken in `IDLE` only (R162). -/
theorem isCommand_of_enabled {p : Phase} {e : Event} (hp : p ≠ .idle) (he : enabled p e = true) :
    e.isCommand = false := by
  cases e with
  | cmdIssue op arg => exact absurd (enabled_cmdIssue_iff.mp he) hp
  | txByte | txFail | rxByte b | rxTimeout | rxFail | reset => rfl

/-- What the receive side has ready is taken in `RX` only (R55). -/
theorem isReceive_of_enabled {p : Phase} {e : Event} (hp : p ≠ .rx) (he : enabled p e = true) :
    e.isReceive = false := by
  cases e with
  | rxByte b => exact absurd (enabled_rxByte_iff.mp he) hp
  | rxTimeout => exact absurd (enabled_rxTimeout_iff.mp he) hp
  | rxFail => exact absurd (enabled_rxFail_iff.mp he) hp
  | cmdIssue op arg | txByte | txFail | reset => rfl

/-- Settles O39: the event a step takes is of neither kind in a phase that does not enable that kind. -/
theorem agentsAreHeld : Obligations.AgentsAreHeld := fun _ _ h =>
  ⟨fun hp => step_filter_pending h fun _ => isCommand_of_enabled hp,
    fun hp => step_filter_pending h fun _ => isReceive_of_enabled hp⟩

/-- In `TX` an event sends or ends, in `RX` it stores or ends, and the ninth byte of a `READ` is the one way from `TX`
to `RX`. -/
theorem perform_moves_forward {s t : State} {e : Event} (he : enabled s.phase e = true)
    (h : perform e s = .next t) :
    (s.phase = .rx → t.phase ≠ .tx) ∧
    (s.phase = .tx → t.phase ≠ .idle → t.txf = s.txf ∧ t.curOp = s.curOp ∧ s.txi.val ≤ t.txi.val) ∧
    (t.phase = .rx → s.phase ≠ .rx → s.phase = .tx ∧ s.curOp = .read ∧ s.txi.val = 8 ∧ t.txi.val = 9) := by
  rcases perform_cases he h with ⟨hp, op, arg, -, hc⟩ | ⟨hp, -, hn, hc⟩ | ⟨-, -, rfl⟩ | ⟨hp, b, -, hn, hc⟩ |
    ⟨-, -, hc⟩ | ⟨-, -, rfl⟩ | ⟨-, rfl⟩
  · -- CmdIssue
    rcases hc with ⟨-, rfl⟩ | ⟨o, f, -, -, rfl⟩ <;> simp [hp]
  · -- TxByte
    rcases hc with ⟨-, rfl⟩ | ⟨h8, hr, rfl⟩ | ⟨-, -, rfl⟩
    · simp [hp]
    · simp [hp, h8, hr]
    · simp
  · -- TxFail
    simp
  · -- RxByte
    rcases hc with ⟨-, rfl⟩ | ⟨-, ⟨v, -, rfl⟩ | ⟨-, rfl⟩⟩ <;> simp [hp]
  · -- RxTimeout
    rcases hc with ⟨v, -, rfl⟩ | ⟨-, rfl⟩ <;> simp
  · -- RxFail
    simp
  · -- Reset
    simp

/-- Settles O37: a step performs an event, which moves the transaction forward, or changes nothing. -/
theorem noRetryNoPipelining : Obligations.NoRetryNoPipelining := by
  intro s t h
  rcases step_cases h with ⟨-, rfl⟩ | ⟨e, rest, -, he, hp⟩
  · exact ⟨fun hrx => by simp [hrx], fun _ _ => ⟨rfl, rfl, le_rfl⟩, fun hrx hne => absurd hrx hne⟩
  · exact perform_moves_forward (s := { s with pending := rest }) he hp

end Sys2Proof.Machine

/-! SUPPORT. An operation ends under the fairness of R174: every event it takes brings its end nearer. -/

namespace Sys2Proof.Machine

theorem eventsLeft_of_idle {s : State} (hp : s.phase = .idle) : eventsLeft s = 0 := by
  simp [eventsLeft, hp]

theorem eventsLeft_of_tx {s : State} (hp : s.phase = .tx) : eventsLeft s = 9 - s.txi.val + 9 := by
  simp [eventsLeft, hp]

theorem eventsLeft_of_rx {s : State} (hp : s.phase = .rx) : eventsLeft s = 9 - s.rxn.val := by
  simp [eventsLeft, hp]

theorem eventsLeft_le (s : State) : eventsLeft s ≤ 18 := by
  unfold eventsLeft
  split <;> omega

/-- While an operation is in progress an event is still to come (V3). -/
theorem eventsLeft_pos {s : State} (h : Inv s) (hp : s.phase ≠ .idle) : 0 < eventsLeft s := by
  cases hs : s.phase with
  | idle => exact absurd hs hp
  | tx =>
    rw [eventsLeft_of_tx hs]
    omega
  | rx =>
    obtain ⟨-, -, hrxn, -⟩ := h.rxPhase hs
    rw [eventsLeft_of_rx hs]
    omega

/-- An event outside `IDLE` ends the operation, or sends or stores one of the bytes still to come. -/
theorem eventsLeft_perform_lt {s t : State} {e : Event} (h : Inv s) (hs : s.phase ≠ .idle)
    (he : enabled s.phase e = true) (ht : perform e s = .next t) : eventsLeft t < eventsLeft s := by
  have hend : t.phase = .idle → eventsLeft t < eventsLeft s := fun hidle =>
    (eventsLeft_of_idle hidle).symm ▸ eventsLeft_pos h hs
  rcases perform_cases he ht with ⟨hp, -⟩ | ⟨hp, -, hn, hc⟩ | ⟨-, -, rfl⟩ | ⟨hp, b, -, hn, hc⟩ | ⟨-, -, hc⟩ |
    ⟨-, -, rfl⟩ | ⟨-, rfl⟩
  · -- CmdIssue
    exact absurd hp hs
  · -- TxByte
    rcases hc with ⟨-, rfl⟩ | ⟨-, -, rfl⟩ | ⟨-, -, rfl⟩
    · rw [eventsLeft_of_tx hp, eventsLeft_of_tx (s := sendByte s hn) hp]
      exact Nat.add_lt_add_right (Nat.sub_lt_sub_left hn (Nat.lt_succ_self _)) 9
    · rw [eventsLeft_of_tx hp, eventsLeft_of_rx (enterRx_phase _)]
      omega
    · exact hend rfl
  · -- TxFail
    exact hend rfl
  · -- RxByte
    rcases hc with ⟨-, rfl⟩ | ⟨-, ⟨v, -, rfl⟩ | ⟨-, rfl⟩⟩
    · rw [eventsLeft_of_rx hp, eventsLeft_of_rx (s := storeByte b s hn) hp]
      exact Nat.sub_lt_sub_left hn (Nat.lt_succ_self _)
    · exact hend rfl
    · exact hend rfl
  · -- RxTimeout
    rcases hc with ⟨v, -, rfl⟩ | ⟨-, rfl⟩ <;> exact hend rfl
  · -- RxFail
    exact hend rfl
  · -- Reset
    exact hend rfl

/-- With an enabled event ready a step is not idle. -/
theorem takeEnabled_of_someEnabled {s : State} (h : someEnabled s = true) :
    takeEnabled s.phase s.pending ≠ none := by
  obtain ⟨e, hmem, he⟩ := List.any_eq_true.mp h
  intro hnone
  simp [(takeEnabled_none_iff _ _).mp hnone e hmem] at he

theorem eventsLeft_step_lt {s t : State} (h : Inv s) (hs : s.phase ≠ .idle) (hfair : someEnabled s = true)
    (ht : step s = .next t) : eventsLeft t < eventsLeft s := by
  rcases step_cases ht with ⟨hnone, -⟩ | ⟨e, rest, -, he, hp⟩
  · exact absurd hnone (takeEnabled_of_someEnabled hfair)
  · exact eventsLeft_perform_lt (s := { s with pending := rest }) (h.set_pending rest) hs he hp

/-- Of a run that is fair for `n` steps, no more are needed than there are events left, if these are at most `n`. -/
theorem exists_run_to_idle {n : Nat} {s : State} (h : Inv s) (hn : eventsLeft s ≤ n)
    (hfair : ∀ k t, k < n → Sys2Proof.core.run k s = .next t → t.phase ≠ .idle → someEnabled t = true) :
    ∃ (k : Nat) (t : State), k ≤ eventsLeft s ∧ Sys2Proof.core.run k s = .next t ∧ t.phase = .idle := by
  by_cases hs : s.phase = .idle
  · exact ⟨0, s, Nat.zero_le _, run_zero s, hs⟩
  induction n generalizing s with
  | zero => exact absurd hn (eventsLeft_pos h hs).not_ge
  | succ n ih =>
    obtain ⟨t, ht⟩ := invariantsExcludeStops s h
    have hlt : eventsLeft t < eventsLeft s :=
      eventsLeft_step_lt h hs (hfair 0 s n.succ_pos (run_zero s) hs) ht
    by_cases htp : t.phase = .idle
    · exact ⟨1, t, eventsLeft_pos h hs, run_succ ht 0, htp⟩
    obtain ⟨k, u, hk, hrun, hu⟩ := ih (stepKeepsInvariants s t h ht) (by omega)
      (fun k u hk hrun => hfair (k + 1) u (Nat.succ_lt_succ hk) ((run_succ ht k).trans hrun)) htp
    exact ⟨k + 1, u, by omega, (run_succ ht k).trans hrun, hu⟩

/-- Settles O47: at most eighteen events are left, and each fair step takes one. -/
theorem operationEndsUnderFairness : Obligations.OperationEndsUnderFairness := by
  intro s h hfair
  obtain ⟨k, t, hk, hrun, ht⟩ := exists_run_to_idle h (eventsLeft_le s) hfair
  exact ⟨k, t, hk, hk.trans (eventsLeft_le s), hrun, ht⟩

end Sys2Proof.Machine

/-! SUPPORT. Whole operations (R176): the command and its frame bytes, then for a `READ` its response. -/

namespace Sys2Proof.Machine

/-- A run of one step more at its end. -/
theorem run_snoc {s t u : State} {k : Nat} (h : Sys2Proof.core.run k s = .next t) (ht : step t = .next u) :
    Sys2Proof.core.run (k + 1) s = .next u :=
  (run_add h 1).trans (run_succ ht 0)

/-! ### Sending a frame -/

/-- `s` after it has accepted an operation and `k` bytes of its frame have gone out. -/
def sendingFrame (o : Op) (f : Frame) (k : Fin 10) (pending : List Event) (s : State) : State :=
  { s with
    pending := pending, txStream := s.txStream ++ f.toList.take k.val, txf := f, txi := k, rxn := 0, curOp := o
    co2Valid := false, status := .none, phase := .tx }

theorem take_succ_frame (f : Frame) (n : Fin 9) : f.toList.take n.val ++ [f[n]] = f.toList.take (n.val + 1) := by
  rw [List.take_add_one, List.getElem?_eq_getElem (by simp)]
  rfl

theorem sendByte_sendingFrame (o : Op) (f : Frame) (n : Fin 9) (pending : List Event) (s : State) :
    sendByte (sendingFrame o f n.castSucc pending s) n.isLt = sendingFrame o f n.succ pending s := by
  simp only [sendingFrame, Fin.val_succ, ← take_succ_frame, ← List.append_assoc]
  rfl

/-- The first step accepts the command word; nothing has been sent (R161). -/
theorem step_command {s : State} {op : BitVec 3} {arg : Int} {f : Frame} {rest : List Event} (hp : s.phase = .idle)
    (hb : build op arg = .ok f) (hpending : s.pending = .cmdIssue op arg :: rest) :
    ∃ o : Op, o.code = op ∧ step s = .next (sendingFrame o f 0 rest s) := by
  obtain ⟨-, -, hidle⟩ := cmdIssueFollowsBuild { s with pending := rest } op arg
  obtain ⟨-, haccept⟩ := hidle hp
  obtain ⟨o, ho, hx⟩ := haccept f hb
  refine ⟨o, ho, ?_⟩
  rw [step_head hpending (enabled_cmdIssue_iff.mpr hp), hx, sendingFrame, Fin.val_zero, List.take_zero,
    List.append_nil]

/-- In `TX` the first pending event, if the transport's, is the one performed. -/
theorem step_sendingFrame {e : Event} (he : enabled .tx e = true) (o : Op) (f : Frame) (k : Fin 10)
    (rest : List Event) (s : State) :
    step (sendingFrame o f k (e :: rest) s) = perform e (sendingFrame o f k rest s) :=
  step_head (e := e) (rest := rest) rfl he

/-- A step with a frame byte before the ninth. -/
theorem step_txByte (o : Op) (f : Frame) {k : Nat} (hk : k < 8) (rest : List Event) (s : State) :
    step (sendingFrame o f ⟨k, by omega⟩ (.txByte :: rest) s) = .next (sendingFrame o f ⟨k + 1, by omega⟩ rest s) := by
  have hk9 : k < 9 := by omega
  rw [step_sendingFrame rfl, perform, txByte_of_lt_eight (s := sendingFrame o f ⟨k, _⟩ rest s) hk9 hk]
  exact congrArg Host.Outcome.next (sendByte_sendingFrame o f ⟨k, hk9⟩ rest s)

/-- The ninth byte sends the frame to its end. -/
theorem sendByte_ninth (o : Op) (f : Frame) (pending : List Event) (s : State) :
    sendByte (sendingFrame o f 8 pending s) (by decide : 8 < 9) = sendingFrame o f 9 pending s :=
  sendByte_sendingFrame o f 8 pending s

/-- Up to eight frame bytes go out one by one. -/
theorem run_txBytes (o : Op) (f : Frame) {k : Nat} (hk : k < 9) (rest : List Event) (s : State) :
    Sys2Proof.core.run k (sendingFrame o f 0 (List.replicate k .txByte ++ rest) s) =
      .next (sendingFrame o f ⟨k, by omega⟩ rest s) := by
  induction k generalizing rest with
  | zero => rfl
  | succ k ih =>
    rw [List.replicate_succ', List.append_assoc]
    exact run_snoc (ih (by omega) (.txByte :: rest)) (step_txByte o f (by omega) rest s)

/-- A command and up to eight bytes of its frame. -/
theorem run_command {s : State} {op : BitVec 3} {arg : Int} {f : Frame} {k : Nat} {rest : List Event}
    (hp : s.phase = .idle) (hb : build op arg = .ok f) (hk : k < 9)
    (hpending : s.pending = .cmdIssue op arg :: (List.replicate k .txByte ++ rest)) :
    ∃ o : Op, o.code = op ∧ Sys2Proof.core.run (k + 1) s = .next (sendingFrame o f ⟨k, by omega⟩ rest s) := by
  obtain ⟨o, ho, hstep⟩ := step_command hp hb hpending
  exact ⟨o, ho, (run_succ hstep k).trans (run_txBytes o f hk rest s)⟩

/-- Settles O49: after the command and `k` bytes, `TxFail` raises `TRANSPORT_ERROR`. -/
theorem writeFailureOperation : Obligations.WriteFailureOperation := by
  intro s op arg f k rest hp hb hpending
  obtain ⟨o, ho, hrun⟩ := run_command hp hb k.isLt hpending
  exact ⟨o, ho, run_snoc hrun (step_sendingFrame rfl o f k.castSucc rest s)⟩

/-- After the ninth byte the whole frame is on the TX stream. -/
theorem sendingFrame_nine (o : Op) (f : Frame) (pending : List Event) (s : State) :
    (sendingFrame o f 9 pending s).txStream = s.txStream ++ f.toList :=
  congrArg (s.txStream ++ ·) (List.take_of_length_le (by simp))

/-- Settles O48: after the command and eight bytes, the ninth ends the operation, since it is no `READ`. -/
theorem sendOnlyOperation : Obligations.SendOnlyOperation := by
  intro s op arg f rest hp hop hb hpending
  obtain ⟨o, ho, hrun⟩ := run_command (k := 8) (rest := .txByte :: rest) hp hb (by decide) hpending
  have hr : o ≠ .read := fun hread => hop (ho.symm.trans (congrArg Op.code hread))
  have hlast : step (sendingFrame o f 8 (.txByte :: rest) s) = .next (endOk (sendingFrame o f 9 rest s)) := by
    rw [step_sendingFrame rfl, perform, txByte_ninth_other (by decide : 8 < 9) rfl hr, sendByte_ninth]
  refine ⟨o, ho, (run_snoc hrun hlast).trans ?_⟩
  rw [← sendingFrame_nine o f rest s]
  rfl

/-! ### Receiving a response -/

/-- A `READ` is in its response phase: its frame has made the TX stream `stream`, and `r` has been received. -/
structure Receiving (stream r : List Byte) (pending : List Event) (s : State) : Prop where
  phase : s.phase = .rx
  curOp : s.curOp = .read
  co2Valid : s.co2Valid = false
  received : received s = r
  txStream : s.txStream = stream
  pending : s.pending = pending

theorem Receiving.rxn {stream r : List Byte} {pending : List Event} {s : State} (h : Receiving stream r pending s) :
    s.rxn.val = r.length := by
  rw [← h.received, received_length]

theorem Receiving.set_pending {stream r : List Byte} {pending : List Event} {s : State}
    (h : Receiving stream r pending s) (rest : List Event) : Receiving stream r rest { s with pending := rest } :=
  { h with pending := rfl }

theorem Receiving.storeByte {stream r : List Byte} {pending : List Event} {s : State}
    (h : Receiving stream r pending s) (b : Byte) (hn : s.rxn.val < 9) :
    Receiving stream (r ++ [b]) pending (storeByte b s hn) :=
  { h with received := h.received ▸ received_storeByte b s hn }

/-- The ninth frame byte of a `READ` begins its response phase, with nothing received (R163, R165). -/
theorem receiving_enterRx (rest : List Event) (s : State) :
    Receiving (s.txStream ++ [0xFF, 0x01, 0x86, 0x00, 0x00, 0x00, 0x00, 0x00, 0x79]) [] rest
      (enterRx (sendingFrame .read buildRead 9 rest s)) where
  phase := rfl
  curOp := rfl
  co2Valid := rfl
  received := rfl
  txStream := (sendingFrame_nine .read buildRead rest s).trans
    (congrArg (fun f : Frame => s.txStream ++ f.toList) buildRead_eq)
  pending := rfl

/-- A `READ` command and the nine bytes of its frame. -/
theorem run_readFrame {s : State} {arg : Int} {rest : List Event} (hp : s.phase = .idle)
    (hpending : s.pending = .cmdIssue 0 arg :: (List.replicate 9 .txByte ++ rest)) :
    Sys2Proof.core.run 10 s = .next (enterRx (sendingFrame .read buildRead 9 rest s)) := by
  obtain ⟨o, ho, hrun⟩ :=
    run_command (k := 8) (rest := .txByte :: rest) hp (build_read arg) (by decide) hpending
  obtain rfl : o = .read := code_inj ho
  refine run_snoc hrun ?_
  calc step (sendingFrame .read buildRead 8 (.txByte :: rest) s)
    _ = txByte (sendingFrame .read buildRead 8 rest s) := step_sendingFrame rfl _ _ 8 rest s
    _ = .next (enterRx (sendingFrame .read buildRead 9 rest s)) := by
      rw [txByte_ninth_read (by decide : 8 < 9) rfl rfl, sendByte_ninth]

/-- A step with a response byte before the ninth. -/
theorem Receiving.step_rxByte {stream r : List Byte} {b : Byte} {rest : List Event} {s : State}
    (h : Receiving stream r (.rxByte b :: rest) s) (hr : r.length < 8) :
    ∃ t, step s = .next t ∧ Receiving stream (r ++ [b]) rest t := by
  have h8 : s.rxn.val < 8 := h.rxn ▸ hr
  have hn : s.rxn.val < 9 := Nat.lt_succ_of_lt h8
  refine ⟨_, ?_, (h.set_pending rest).storeByte b hn⟩
  rw [step_head h.pending (enabled_rxByte_iff.mpr h.phase)]
  exact rxByte_of_lt_eight (s := { s with pending := rest }) b hn h8

/-- Up to eight response bytes are received one by one. -/
theorem Receiving.run_rxBytes {stream r l : List Byte} {rest : List Event} {s : State}
    (h : Receiving stream r (l.map .rxByte ++ rest) s) (hlen : r.length + l.length ≤ 8) :
    ∃ t, Sys2Proof.core.run l.length s = .next t ∧ Receiving stream (r ++ l) rest t := by
  induction l generalizing r s with
  | nil => exact ⟨s, run_zero s, by simpa using h⟩
  | cons b l ih =>
    rw [List.length_cons] at hlen
    obtain ⟨t, ht, hrt⟩ := h.step_rxByte (by omega)
    obtain ⟨u, hu, hru⟩ := ih hrt (by simp; omega)
    exact ⟨u, (run_succ ht l.length).trans hu, by simpa using hru⟩

/-- A `READ`, its frame and up to eight bytes of its response. -/
theorem run_readResponse {s : State} {arg : Int} {r : List Byte} {rest : List Event} (hp : s.phase = .idle)
    (hr : r.length ≤ 8)
    (hpending : s.pending = .cmdIssue 0 arg :: (List.replicate 9 .txByte ++ (r.map .rxByte ++ rest))) :
    ∃ t, Sys2Proof.core.run (10 + r.length) s = .next t ∧
      Receiving (s.txStream ++ [0xFF, 0x01, 0x86, 0x00, 0x00, 0x00, 0x00, 0x00, 0x79]) r rest t := by
  obtain ⟨t, hrun, ht⟩ := (receiving_enterRx (r.map .rxByte ++ rest) s).run_rxBytes (by simpa using hr)
  exact ⟨t, (run_add (run_readFrame hp hpending) r.length).trans hrun, ht⟩

/-- Settles O51: whatever bytes have been received, `RxFail` raises `TRANSPORT_ERROR`. -/
theorem readFailureOperation : Obligations.ReadFailureOperation := by
  intro s arg r rest hp hr hpending
  obtain ⟨t, hrun, ht⟩ := run_readResponse hp hr hpending
  have hstep : step t = .next (raise .transportError { t with pending := rest }) :=
    step_head ht.pending (enabled_rxFail_iff.mpr ht.phase)
  refine ⟨raise .transportError { t with pending := rest }, ?_, rfl, rfl, rfl, ht.co2Valid, ht.rxn, ht.received,
    ht.txStream⟩
  rw [show 11 + r.length = 10 + r.length + 1 by omega]
  exact run_snoc hrun hstep

/-- A `READ` has ended with the response `r`: nothing has been sent since its frame, and its result is what
`ParseReadResponse` gives of `r` (R168, R170). -/
def ReadEnded (stream r : List Byte) (pending : List Event) (t : State) : Prop :=
  t.phase = .idle ∧ t.pending = pending ∧ t.curOp = .read ∧ t.rxn.val = r.length ∧ received t = r ∧
  t.txStream = stream ∧
  (∀ v, parseReadResponse r = .ok v → t.status = .ok ∧ t.co2Valid = true ∧ t.co2 = v) ∧
  (∀ e, parseReadResponse r = .error e → t.status = .malformedResponse ∧ t.co2Valid = false)

/-- `Finish` ends a `READ` with the response received. -/
theorem Receiving.finish {stream r : List Byte} {pending : List Event} {s : State}
    (h : Receiving stream r pending s) : ∃ t, finish s = .next t ∧ ReadEnded stream r pending t := by
  cases hparse : parseReadResponse r with
  | ok v =>
    refine ⟨_, finish_of_reading h.phase (h.received.symm ▸ hparse), rfl, h.pending, h.curOp, h.rxn, h.received,
      h.txStream, fun w hw => ⟨rfl, rfl, ?_⟩, fun e he => ?_⟩
    · exact Except.ok.inj (hparse.symm.trans hw)
    · cases hparse.symm.trans he
  | error e =>
    refine ⟨_, finish_of_malformed h.phase (h.received.symm ▸ hparse), rfl, h.pending, h.curOp, h.rxn, h.received,
      h.txStream, fun w hw => ?_, fun _ _ => ⟨rfl, h.co2Valid⟩⟩
    cases hparse.symm.trans hw

/-- The ninth response byte is stored and ends the `READ` in the same step (R166). -/
theorem Receiving.step_ninth {stream r : List Byte} {b : Byte} {rest : List Event} {s : State}
    (h : Receiving stream r (.rxByte b :: rest) s) (hr : r.length = 8) :
    ∃ t, step s = .next t ∧ ReadEnded stream (r ++ [b]) rest t := by
  have h8 : s.rxn.val = 8 := h.rxn.trans hr
  have hn : s.rxn.val < 9 := by omega
  obtain ⟨t, ht, hend⟩ := ((h.set_pending rest).storeByte b hn).finish
  refine ⟨t, ?_, hend⟩
  rw [step_head h.pending (enabled_rxByte_iff.mpr h.phase)]
  exact (rxByte_ninth (s := { s with pending := rest }) b hn h8).trans ht

/-- The timeout ends the `READ` with what has been received (R167). -/
theorem Receiving.step_rxTimeout {stream r : List Byte} {rest : List Event} {s : State}
    (h : Receiving stream r (.rxTimeout :: rest) s) : ∃ t, step s = .next t ∧ ReadEnded stream r rest t := by
  obtain ⟨t, ht, hend⟩ := (h.set_pending rest).finish
  exact ⟨t, (step_head h.pending (enabled_rxTimeout_iff.mpr h.phase)).trans ht, hend⟩

/-- Settles O50: the response ends with its ninth byte, or before it with the timeout. -/
theorem readOperation : Obligations.ReadOperation := by
  intro s arg r stop rest hp hstop hpending
  rcases hstop with ⟨h9, rfl⟩ | ⟨h8, rfl⟩
  · rcases List.eq_nil_or_concat' r with rfl | ⟨l, b, rfl⟩
    · cases h9
    have hl : l.length = 8 := by simpa using h9
    rw [List.map_append, List.append_assoc] at hpending
    obtain ⟨t, hrun, ht⟩ := run_readResponse (r := l) (rest := .rxByte b :: rest) hp hl.le hpending
    obtain ⟨u, hu, hend⟩ := ht.step_ninth hl
    have hsteps : 10 + (l ++ [b]).length + ([] : List Event).length = 10 + l.length + 1 := by simp [Nat.add_assoc]
    rw [hsteps]
    exact ⟨u, run_snoc hrun hu, hend⟩
  · obtain ⟨t, hrun, ht⟩ := run_readResponse hp h8 hpending
    obtain ⟨u, hu, hend⟩ := ht.step_rxTimeout
    exact ⟨u, run_snoc hrun hu, hend⟩

end Sys2Proof.Machine

/-! SUPPORT. How errors are entered and left (R190 to R193, R196, R197). -/

namespace Sys2Proof.Machine

/-- Settles O45: a step performs one enabled event, and each of them keeps what the TX stream ends with. -/
theorem stepKeepsSentOnStream : Obligations.StepKeepsSentOnStream := fun _ _ => sentOnStream_step

/-- Settles O36: whether `Build` refuses or gives a frame, `CmdIssue` writes `status` over. -/
theorem noAcknowledgementNeeded : Obligations.NoAcknowledgementNeeded := by
  intro s st op arg hp
  have hp' : { s with status := st }.phase = .idle := hp
  simp only [perform]
  rcases cmdIssue_cases op arg hp with ⟨hb, hc⟩ | ⟨o, f, rfl, hb, hc⟩
  · rw [hc, cmdIssue_of_build_error hp' hb]
    rfl
  · rw [hc, cmdIssue_of_build_ok hp' hb]
    rfl

/-- With the ninth byte stored the response is the whole buffer (R166). -/
theorem received_storeByte_ninth {s : State} (b : Byte) (hn : s.rxn.val < 9) (h8 : s.rxn.val = 8) :
    received (storeByte b s hn) = (s.rxb.set 8 b).toList := by
  rw [received_of_rxn_nine (congrArg (· + 1) h8)]
  simp [h8]

/-- Settles O35, event by event: what it writes to `status`, against the events and conditions named. -/
theorem errorsHaveTheirCauses : Obligations.ErrorsHaveTheirCauses := by
  intro s t e he hs h
  rcases perform_cases he h with ⟨-, op, arg, rfl, hc⟩ | ⟨-, rfl, hn, hc⟩ | ⟨-, rfl, rfl⟩ |
    ⟨-, b, rfl, hn, hc⟩ | ⟨-, rfl, hc⟩ | ⟨-, rfl, rfl⟩ | ⟨rfl, rfl⟩
  · -- CmdIssue
    rcases hc with ⟨hb, rfl⟩ | ⟨o, f, -, hb, rfl⟩
    · simp [hb, ErrorKind.status]
    · simp [hb]
  · -- TxByte
    rcases hc with ⟨-, rfl⟩ | ⟨-, -, rfl⟩ | ⟨-, -, rfl⟩ <;> simp [hs]
  · -- TxFail
    simp [ErrorKind.status]
  · -- RxByte
    rcases hc with ⟨h8, rfl⟩ | ⟨h8, hc⟩
    · have hne : s.rxn ≠ 8 := fun heq => by simp [heq] at h8
      simp [hs, hne]
    · have heq : s.rxn = 8 := Fin.ext h8
      rw [received_storeByte_ninth b hn h8] at hc
      rcases hc with ⟨v, hv, rfl⟩ | ⟨hv, rfl⟩
      · simp [hv]
      · simp [hv, heq, ErrorKind.status]
  · -- RxTimeout
    rcases hc with ⟨v, hv, rfl⟩ | ⟨hv, rfl⟩
    · simp [hv]
    · simp [hv, ErrorKind.status]
  · -- RxFail
    simp [ErrorKind.status]
  · -- Reset
    simp

end Sys2Proof.Machine

/-! SUPPORT. Reset, from every state (R220). -/

namespace Sys2Proof.Machine

/-- Reset answers a next state in every state: the one its register writes give (R220). -/
theorem perform_reset (s : State) : perform .reset s = .next (resetRegisters s) := rfl

/-- Settles O29: the registers, the stream and what is pending by the laws of the register writes, the outputs by
R29's equations at phase `IDLE` and status `NONE`. -/
theorem resetFromAnyState : Obligations.ResetFromAnyState := fun s =>
  ⟨enabled_reset s.phase, resetRegisters s, perform_reset s, resetRegisters_phase s, resetRegisters_status s,
    resetRegisters_co2Valid s, resetRegisters_txi s, resetRegisters_rxn s, resetRegisters_txStream s,
    resetRegisters_pending s, by simp [State.cmdReady], by simp [State.busy], by simp [State.done]⟩

end Sys2Proof.Machine
